-- ==== Sys2Proof/Word.lean ====
section
/-!
DEFINITION. The two data widths of the LC-3b: a 16-bit word and an 8-bit byte.

Every register and every word value is a 16-bit string and every memory location holds one byte (00_scope.md rule R6,
10_state.md rule R29). Addition of `Word` is addition modulo 2^16 (rule R6, 92_eei_decisions.md D4).
-/

namespace Sys2Proof

/-- A 16-bit word: a register, an address, an instruction (00_scope.md rule R6). -/
abbrev Word := BitVec 16

/-- An 8-bit byte: the contents of one memory location (10_state.md rule R29). -/
abbrev Byte := BitVec 8

end Sys2Proof
end

