-- ==== Sys2Proof/Config.lean ====
section
/-!
DEFINITION. The open parameters of 00_scope.md rule R16 (92_eei_decisions.md, "Parameters, in one list") that have more than one value, and
the value the spec takes by default. The operations they govern take the parameter as an argument; the machine passes the
value named here. The launch parameters (RESET_PC and the rest) are `Sys2Proof.Machine.Launch`, in Machine/State.lean.
The parameters with one value only (EXCEPTION_POLICY, RESERVED_OPCODE_POLICY, IO_BYTE_ACCESS, UNMAPPED_IO,
DEVICE_MISUSE, INTERRUPT_LATENCY) are written into the operations.
-/

namespace Sys2Proof

/-- SBZ_POLICY: what a 1 in a field that the figures show as constant 0 does (30_encoding.md rule R71, D6). -/
inductive SbzPolicy where
  /-- the word is a reserved encoding -/
  | strict
  /-- the constant bits are not examined -/
  | ignore
  deriving DecidableEq, Repr

/-- JSRR_R7_ORDER: whether JSRR reads its base register after or before it writes R7 (42_control.md rule R125, D8). -/
inductive JsrrOrder where
  | after
  | before
  deriving DecidableEq, Repr

namespace Config

/-- The spec's default of SBZ_POLICY (92_eei_decisions.md D6; log 12). -/
def sbzPolicy : SbzPolicy := .strict

/-- The spec's default of JSRR_R7_ORDER: the literal order of the source (92_eei_decisions.md D8; log 13). -/
def jsrrOrder : JsrrOrder := .after

/-- The spec's default of SUPERVISOR_INTERRUPTIBLE (92_eei_decisions.md D10; log 14). -/
def supervisorInterruptible : Bool := false

end Config

end Sys2Proof
end

