-- ==== Sys2Proof/Syntax.lean ====
section
/-!
DEFINITION. The instructions of the LC-3b, one constructor for each row of spec/opcode_table.json.

A register field is one of eight names and an immediate has exactly the bits of its field, so no term of these types
holds a value the encoding cannot (00_scope.md rule R13, 30_encoding.md rules R60 to R68).
-/

namespace Sys2Proof

/-- The eight register numbers an instruction field can hold (10_state.md rule R20). Number 6 names the supervisor or the user
stack pointer by the privilege mode (rule R21). -/
inductive Reg where
  | r0 | r1 | r2 | r3 | r4 | r5 | r6 | r7
  deriving DecidableEq, Repr

/-- One instruction. The docstring of a constructor names the rule that gives its meaning. -/
inductive Instr where
  /-- ADD DR, SR1, SR2 (40_operate.md rule R80) -/
  | addReg (dr sr1 sr2 : Reg)
  /-- ADD DR, SR1, imm5 (rule R81) -/
  | addImm (dr sr1 : Reg) (imm5 : BitVec 5)
  /-- AND DR, SR1, SR2 (rule R82) -/
  | andReg (dr sr1 sr2 : Reg)
  /-- AND DR, SR1, imm5 (rule R83) -/
  | andImm (dr sr1 : Reg) (imm5 : BitVec 5)
  /-- BR with its three condition bits (42_control.md rule R120) -/
  | br (n z p : Bool) (offset9 : BitVec 9)
  /-- RET, the JMP word with BaseR = 111 (rule R126) -/
  | ret
  /-- JMP BaseR, BaseR not R7 in a well-formed term: that word is RET (rule R122) -/
  | jmp (base : Reg)
  /-- JSR LABEL (rule R124) -/
  | jsr (offset11 : BitVec 11)
  /-- JSRR BaseR (rule R125) -/
  | jsrr (base : Reg)
  /-- LDB DR, BaseR, boffset6 (41_data_movement.md rule R100) -/
  | ldb (dr base : Reg) (boffset6 : BitVec 6)
  /-- LDW DR, BaseR, offset6 (rule R101) -/
  | ldw (dr base : Reg) (offset6 : BitVec 6)
  /-- LEA DR, LABEL (rule R102) -/
  | lea (dr : Reg) (offset9 : BitVec 9)
  /-- NOT DR, SR, the XOR word with imm5 = 11111 (40_operate.md rule R84) -/
  | notReg (dr sr : Reg)
  /-- RTI (43_system.md rule R140) -/
  | rti
  /-- LSHF DR, SR, amount4 (40_operate.md rule R85) -/
  | lshf (dr sr : Reg) (amount4 : BitVec 4)
  /-- RSHFL DR, SR, amount4 (rule R86) -/
  | rshfl (dr sr : Reg) (amount4 : BitVec 4)
  /-- RSHFA DR, SR, amount4 (rule R87) -/
  | rshfa (dr sr : Reg) (amount4 : BitVec 4)
  /-- STB SR, BaseR, boffset6 (41_data_movement.md rule R103) -/
  | stb (sr base : Reg) (boffset6 : BitVec 6)
  /-- STW SR, BaseR, offset6 (rule R104) -/
  | stw (sr base : Reg) (offset6 : BitVec 6)
  /-- TRAP trapvect8 (43_system.md rule R142) -/
  | trap (trapvect8 : BitVec 8)
  /-- XOR DR, SR1, SR2 (40_operate.md rule R88) -/
  | xorReg (dr sr1 sr2 : Reg)
  /-- XOR DR, SR1, imm5, imm5 not 11111 in a well-formed term: that word is NOT (rule R89) -/
  | xorImm (dr sr1 : Reg) (imm5 : BitVec 5)
  /-- a word of the reserved opcode 1010, with its low twelve bits (43_system.md rule R144) -/
  | reserved1010 (low : BitVec 12)
  /-- a word of the reserved opcode 1011, with its low twelve bits (rule R144) -/
  | reserved1011 (low : BitVec 12)
  deriving DecidableEq, Repr

/-- The mnemonic of an instruction as spec/opcode_table.json has it. -/
def Instr.mnemonic : Instr → String
  | .addReg _ _ _ => "ADD"
  | .addImm _ _ _ => "ADD"
  | .andReg _ _ _ => "AND"
  | .andImm _ _ _ => "AND"
  | .br _ _ _ _ => "BR"
  | .ret => "RET"
  | .jmp _ => "JMP"
  | .jsr _ => "JSR"
  | .jsrr _ => "JSRR"
  | .ldb _ _ _ => "LDB"
  | .ldw _ _ _ => "LDW"
  | .lea _ _ => "LEA"
  | .notReg _ _ => "NOT"
  | .rti => "RTI"
  | .lshf _ _ _ => "LSHF"
  | .rshfl _ _ _ => "RSHFL"
  | .rshfa _ _ _ => "RSHFA"
  | .stb _ _ _ => "STB"
  | .stw _ _ _ => "STW"
  | .trap _ => "TRAP"
  | .xorReg _ _ _ => "XOR"
  | .xorImm _ _ _ => "XOR"
  | .reserved1010 _ => "reserved_1010"
  | .reserved1011 _ => "reserved_1011"

/-- The instructions the figures mark "+": those that set the condition codes from the value written to DR
(10_state.md rule R26, 30_encoding.md rule R69). -/
def Instr.setsCC : Instr → Bool
  | .addReg _ _ _ | .addImm _ _ _ | .andReg _ _ _ | .andImm _ _ _ | .xorReg _ _ _ | .xorImm _ _ _ => true
  | .notReg _ _ | .lshf _ _ _ | .rshfl _ _ _ | .rshfa _ _ _ => true
  | .ldb _ _ _ | .ldw _ _ _ | .lea _ _ => true
  | .br _ _ _ _ | .ret | .jmp _ | .jsr _ | .jsrr _ | .rti | .stb _ _ _ | .stw _ _ _ | .trap _ => false
  | .reserved1010 _ | .reserved1011 _ => false

end Sys2Proof
end

