-- ==== Sys2Proof/WellFormed.lean ====
section
/-!
DEFINITION. Which terms of `Instr` are what a decoder can answer.

The types of the operands leave two checks: the word of XOR with imm5 = 11111 is NOT and the word of JMP with BaseR = 111 is RET, and the
table's alias rows come first (30_encoding.md rule R72), so those two words never stand for the general constructor.
-/

namespace Sys2Proof

/-- The instruction is the one its own word decodes to (30_encoding.md rules R62, R64, R72). -/
def Instr.wellFormed : Instr → Bool
  | .xorImm _ _ imm5 => imm5 != 0b11111#5
  | .jmp base => base != .r7
  | .addReg _ _ _ | .addImm _ _ _ | .andReg _ _ _ | .andImm _ _ _ | .br _ _ _ _ | .ret | .jsr _ | .jsrr _ => true
  | .ldb _ _ _ | .ldw _ _ _ | .lea _ _ | .notReg _ _ | .rti | .lshf _ _ _ | .rshfl _ _ _ | .rshfa _ _ _ => true
  | .stb _ _ _ | .stw _ _ _ | .trap _ | .xorReg _ _ _ | .reserved1010 _ | .reserved1011 _ => true

end Sys2Proof
end

