-- ==== Sys2Proof/Decode.lean ====
section
/-!
DEFINITION. The decoder of 30_encoding.md rule R72, total on any bytes and rejecting by name, and the encoder written from the same
formats (rules R61 to R68). Decoding reads one little-endian word and no state (rule R60).
-/

namespace Sys2Proof

/-- Why the decoder gives no instruction. -/
inductive DecodeReject where
  /-- a 1 in a field the figures show as constant 0 (30_encoding.md rule R71) -/
  | reservedEncoding
  /-- fewer than the two bytes every instruction has (rule R60) -/
  | tooFewBytes
  deriving DecidableEq, Repr

/-- The register a three-bit field names (10_state.md rule R20). -/
def Reg.ofBits (b : BitVec 3) : Reg :=
  if b = 0#3 then .r0 else if b = 1#3 then .r1 else if b = 2#3 then .r2 else if b = 3#3 then .r3
  else if b = 4#3 then .r4 else if b = 5#3 then .r5 else if b = 6#3 then .r6 else .r7

/-- The three-bit number of a register (10_state.md rule R20). -/
def Reg.bits : Reg → BitVec 3
  | .r0 => 0 | .r1 => 1 | .r2 => 2 | .r3 => 3 | .r4 => 4 | .r5 => 5 | .r6 => 6 | .r7 => 7

/-- `field w lo n`: the n bits of the word from bit lo upward, that is `w[lo+n-1:lo]` (00_scope.md rule R5). -/
def field (w : Word) (lo n : Nat) : BitVec n := w.extractLsb' lo n

/-- A register field of the word, given by its lowest bit (00_scope.md rule R13). -/
def regField (w : Word) (lo : Nat) : Reg := Reg.ofBits (field w lo 3)

/-- Accept the instruction if its constant-zero bits are zero, or if the policy does not examine them (30_encoding.md rule R71). -/
def accept (policy : SbzPolicy) (zeros : Bool) (i : Instr) : Except DecodeReject Instr :=
  if policy = .ignore ∨ zeros then .ok i else .error .reservedEncoding

/-- Opcodes 0001, 0101 and 1001: bit 5 selects the immediate form (30_encoding.md rules R61, R62, R72). -/
def decodeOperate (policy : SbzPolicy) (w : Word) (rform : Reg → Reg → Reg → Instr)
    (iform : Reg → Reg → BitVec 5 → Instr) : Except DecodeReject Instr :=
  if field w 5 1 = 1#1 then .ok (iform (regField w 9) (regField w 6) (field w 0 5))
  else accept policy (field w 3 2 = 0#2) (rform (regField w 9) (regField w 6) (regField w 0))

/-- XOR immediate, or NOT when imm5 = 11111 (30_encoding.md rules R62, R72). -/
def xorOrNot (dr sr1 : Reg) (imm5 : BitVec 5) : Instr :=
  if imm5 = 0b11111#5 then .notReg dr sr1 else .xorImm dr sr1 imm5

/-- JMP, or RET when BaseR = 111 (30_encoding.md rules R64, R72). -/
def jmpOrRet (base : Reg) : Instr := if base = .r7 then .ret else .jmp base

/-- Opcode 0100: bit 11 selects JSR or JSRR (30_encoding.md rules R64, R65, R72). -/
def decodeJsr (policy : SbzPolicy) (w : Word) : Except DecodeReject Instr :=
  if field w 11 1 = 1#1 then .ok (.jsr (field w 0 11))
  else accept policy (field w 9 2 = 0#2 ∧ field w 0 6 = 0#6) (.jsrr (regField w 6))

/-- Opcode 1101: bit 4 first, bit 5 only for a right shift (30_encoding.md rules R67, R72, 90_conflicts.md C3). -/
def decodeShift (w : Word) : Instr :=
  if field w 4 1 = 0#1 then .lshf (regField w 9) (regField w 6) (field w 0 4)
  else if field w 5 1 = 0#1 then .rshfl (regField w 9) (regField w 6) (field w 0 4)
  else .rshfa (regField w 9) (regField w 6) (field w 0 4)

/-- The decoding procedure of 30_encoding.md rule R72 under a given SBZ_POLICY. -/
def decodeWord (policy : SbzPolicy) (w : Word) : Except DecodeReject Instr :=
  match field w 12 4 with
  | 0b0000#4 => .ok (.br (field w 11 1 = 1#1) (field w 10 1 = 1#1) (field w 9 1 = 1#1) (field w 0 9))
  | 0b0001#4 => decodeOperate policy w .addReg .addImm
  | 0b0010#4 => .ok (.ldb (regField w 9) (regField w 6) (field w 0 6))
  | 0b0011#4 => .ok (.stb (regField w 9) (regField w 6) (field w 0 6))
  | 0b0100#4 => decodeJsr policy w
  | 0b0101#4 => decodeOperate policy w .andReg .andImm
  | 0b0110#4 => .ok (.ldw (regField w 9) (regField w 6) (field w 0 6))
  | 0b0111#4 => .ok (.stw (regField w 9) (regField w 6) (field w 0 6))
  | 0b1000#4 => accept policy (field w 0 12 = 0#12) .rti
  | 0b1001#4 => decodeOperate policy w .xorReg xorOrNot
  | 0b1010#4 => .ok (.reserved1010 (field w 0 12))
  | 0b1011#4 => .ok (.reserved1011 (field w 0 12))
  | 0b1100#4 => accept policy (field w 9 3 = 0#3 ∧ field w 0 6 = 0#6) (jmpOrRet (regField w 6))
  | 0b1101#4 => .ok (decodeShift w)
  | 0b1110#4 => .ok (.lea (regField w 9) (field w 0 9))
  | _ => accept policy (field w 8 4 = 0#4) (.trap (field w 0 8))

/-- The word whose byte at the lower address is `lo` and at the next address `hi` (20_memory.md rule R41). -/
def wordOfBytes (lo hi : Byte) : Word := hi ++ lo

/-- Decode the instruction at the head of any list of bytes, lowest address first; the rest of the bytes comes with it. -/
def decodeBytes (policy : SbzPolicy) : List Byte → Except DecodeReject (Instr × List Byte)
  | lo :: hi :: rest =>
    match decodeWord policy (wordOfBytes lo hi) with
    | .ok i => .ok (i, rest)
    | .error e => .error e
  | _ => .error .tooFewBytes

/-- The two bytes, lowest address first, of the `nbits` low bits of `w` (20_memory.md rule R41). -/
def tableBytes (nbits w : Nat) : List Byte :=
  [BitVec.ofNat 8 (w % 2 ^ nbits), BitVec.ofNat 8 (w % 2 ^ nbits / 256)]

/-- The instruction the decoder reads from the bits `w` of a row of spec/opcode_table.json. -/
def decodeTableWord (nbits w : Nat) : Option Instr :=
  match decodeBytes Config.sbzPolicy (tableBytes nbits w) with
  | .ok (i, _) => some i
  | .error _ => none

/-! ### The encoder -/

/-- Format R3 (30_encoding.md rule R61). -/
def formatR3 (op : BitVec 4) (dr sr1 sr2 : Reg) : Word := op ++ dr.bits ++ sr1.bits ++ 0b000#3 ++ sr2.bits

/-- Format RI (30_encoding.md rule R62). -/
def formatRI (op : BitVec 4) (dr sr1 : Reg) (imm5 : BitVec 5) : Word := op ++ dr.bits ++ sr1.bits ++ 0b1#1 ++ imm5

/-- Format M (30_encoding.md rule R66). -/
def formatM (op : BitVec 4) (r base : Reg) (offset6 : BitVec 6) : Word := op ++ r.bits ++ base.bits ++ offset6

/-- Format SH; `ad` holds bit 5 (A) and bit 4 (D) (30_encoding.md rule R67). -/
def formatSH (ad : BitVec 2) (dr sr : Reg) (amount4 : BitVec 4) : Word := 0b1101#4 ++ dr.bits ++ sr.bits ++ ad ++ amount4

/-- The word of an instruction, from the encodings of 30_encoding.md rules R61 to R68. -/
def encode : Instr → Word
  | .addReg dr sr1 sr2 => formatR3 0b0001#4 dr sr1 sr2
  | .addImm dr sr1 imm5 => formatRI 0b0001#4 dr sr1 imm5
  | .andReg dr sr1 sr2 => formatR3 0b0101#4 dr sr1 sr2
  | .andImm dr sr1 imm5 => formatRI 0b0101#4 dr sr1 imm5
  | .br n z p offset9 => 0b0000#4 ++ BitVec.ofBool n ++ BitVec.ofBool z ++ BitVec.ofBool p ++ offset9
  | .ret => 0b1100000111000000#16
  | .jmp base => 0b1100000#7 ++ base.bits ++ 0b000000#6
  | .jsr offset11 => 0b01001#5 ++ offset11
  | .jsrr base => 0b0100000#7 ++ base.bits ++ 0b000000#6
  | .ldb dr base boffset6 => formatM 0b0010#4 dr base boffset6
  | .ldw dr base offset6 => formatM 0b0110#4 dr base offset6
  | .lea dr offset9 => 0b1110#4 ++ dr.bits ++ offset9
  | .notReg dr sr => formatRI 0b1001#4 dr sr 0b11111#5
  | .rti => 0b1000000000000000#16
  | .lshf dr sr amount4 => formatSH 0b00#2 dr sr amount4
  | .rshfl dr sr amount4 => formatSH 0b01#2 dr sr amount4
  | .rshfa dr sr amount4 => formatSH 0b11#2 dr sr amount4
  | .stb sr base boffset6 => formatM 0b0011#4 sr base boffset6
  | .stw sr base offset6 => formatM 0b0111#4 sr base offset6
  | .trap trapvect8 => 0b11110000#8 ++ trapvect8
  | .xorReg dr sr1 sr2 => formatR3 0b1001#4 dr sr1 sr2
  | .xorImm dr sr1 imm5 => formatRI 0b1001#4 dr sr1 imm5
  | .reserved1010 low => 0b1010#4 ++ low
  | .reserved1011 low => 0b1011#4 ++ low

/-- The two bytes of an instruction in memory order: the low byte at the lower address (20_memory.md rule R41). -/
def encodeBytes (i : Instr) : List Byte := [(encode i).extractLsb' 0 8, (encode i).extractLsb' 8 8]

/-! ### The opcode table -/

/-- One row of spec/opcode_table.json: a word is of the row if its bits under the mask are the pattern. -/
structure OpcodeRow where
  mnemonic : String
  mask : Word
  pattern : Word
  deriving DecidableEq, Repr

/-- The rows of spec/opcode_table.json in its order; the first matching row wins (30_encoding.md rule R72). -/
def opcodeRows : List OpcodeRow :=
  [⟨"ADD", 0xF038#16, 0x1000#16⟩,
   ⟨"ADD", 0xF020#16, 0x1020#16⟩,
   ⟨"AND", 0xF038#16, 0x5000#16⟩,
   ⟨"AND", 0xF020#16, 0x5020#16⟩,
   ⟨"BR", 0xF000#16, 0x0000#16⟩,
   ⟨"RET", 0xFFFF#16, 0xC1C0#16⟩,
   ⟨"JMP", 0xFE3F#16, 0xC000#16⟩,
   ⟨"JSR", 0xF800#16, 0x4800#16⟩,
   ⟨"JSRR", 0xFE3F#16, 0x4000#16⟩,
   ⟨"LDB", 0xF000#16, 0x2000#16⟩,
   ⟨"LDW", 0xF000#16, 0x6000#16⟩,
   ⟨"LEA", 0xF000#16, 0xE000#16⟩,
   ⟨"NOT", 0xF03F#16, 0x903F#16⟩,
   ⟨"RTI", 0xFFFF#16, 0x8000#16⟩,
   ⟨"LSHF", 0xF010#16, 0xD000#16⟩,
   ⟨"RSHFL", 0xF030#16, 0xD010#16⟩,
   ⟨"RSHFA", 0xF030#16, 0xD030#16⟩,
   ⟨"STB", 0xF000#16, 0x3000#16⟩,
   ⟨"STW", 0xF000#16, 0x7000#16⟩,
   ⟨"TRAP", 0xFF00#16, 0xF000#16⟩,
   ⟨"XOR", 0xF038#16, 0x9000#16⟩,
   ⟨"XOR", 0xF020#16, 0x9020#16⟩,
   ⟨"reserved_1010", 0xF000#16, 0xA000#16⟩,
   ⟨"reserved_1011", 0xF000#16, 0xB000#16⟩]

/-- The mnemonic of the first row a word matches. -/
def firstRow (w : Word) : Option String :=
  (opcodeRows.find? fun r => w &&& r.mask == r.pattern).map OpcodeRow.mnemonic

end Sys2Proof
end

