-- ==== Sys2Proof/Machine/State.lean ====
section
/-!
DEFINITION. The state of the LC-3b as plain data (10_state.md rules R20 to R34), the reasons a step stops, and the state at the
start of a run.

Only the bits the spec defines are held: PSR[14:3] and the undefined bits of the device registers are zero by construction
(10_state.md rule R28, 60_exceptions.md rule R184).
-/

namespace Sys2Proof.Machine

/-- The privilege mode PSR[15] (10_state.md rule R27). -/
inductive Mode where
  /-- PSR[15] = 0 -/
  | supervisor
  /-- PSR[15] = 1 -/
  | user
  deriving DecidableEq, Repr

/-- What the keyboard or the display may do at an instruction boundary (60_exceptions.md rules R181, R183). -/
inductive DeviceEvent where
  /-- `KeyStrike(c)` (rule R181) -/
  | keyStrike (c : Byte)
  /-- `DisplayReady` (rule R183) -/
  | displayReady
  deriving DecidableEq, Repr

/-- The locations x0000..xFDFF as a list of address and byte, addresses strictly rising, no byte equal to what an unlisted
address reads as (`Memory.wf` in Machine/Memory.lean; 10_state.md rule R29). -/
abbrev Memory := List Host.Cell

/-- The faults: the two exceptions the sources name and the model-only outcomes the spec treats as faults. Each is terminal and
writes nothing (60_exceptions.md rules R163, R164). -/
inductive Fault where
  /-- An odd register used as the address of a word or of the next instruction: raised by LDW, STW, JMP, RET and JSRR, and by RTI and
  interrupt initiation with an odd SSP (60_exceptions.md rule R161). Safe: the model stops where the sources name an exception
  without saying what follows it (log 9). -/
  | illegalOperandAddress
  /-- RTI in user mode: raised by RTI (60_exceptions.md rule R162). Safe, as above (log 9). -/
  | privilegeModeViolation
  /-- A word of opcode 1010 or 1011, which is the argument: raised by the two reserved rows (43_system.md rule R144). Safe: the spec
  gives these words no effect. -/
  | illegalOpcode (ir : Word)
  /-- A 1 in a constant-zero field of the fetched word, which is the argument: raised by the fetch (30_encoding.md rule R71). Safe: the
  model stops where a machine might ignore the bit (log 12). -/
  | reservedEncoding (ir : Word)
  /-- An odd word about to be loaded into the PC from memory: raised by TRAP, RTI and interrupt initiation (60_exceptions.md rule R163), and
  by a fetch at an odd pc, which no run reaches (log 10). Safe. -/
  | unalignedPC
  deriving DecidableEq, Repr

/-- The refusals: accesses to which the spec gives no meaning (93_implementation_defined.md U9, U15, U16), and a row of the opcode
table without a meaning. -/
inductive Refusal where
  /-- An instruction that has no meaning in this model yet: raised by `exec` only. Safe. -/
  | notModelled (mnemonic : String)
  /-- A word access to an unassigned device address, or any byte access, fetch or stack word in xFE00..xFFFF: raised by LDB, STB, LDW, STW,
  RTI, interrupt initiation and the fetch (20_memory.md rules R42, R44). Safe: the spec declines to say what happens. -/
  | unmappedIO
  /-- A load of DDR, a store to KBDR or DSR, a store to DDR while DSR[15] = 0: raised by LDW and STW (60_exceptions.md rules
  R180, R182). Safe: the spec declines to say what happens. -/
  | deviceMisuse
  deriving DecidableEq, Repr

/-- The whole state of the machine. INVENTORY.md lists the fields with their rules. -/
structure State where
  /-- R0 to R5 (10_state.md rule R20). -/
  r0 : Word
  r1 : Word
  r2 : Word
  r3 : Word
  r4 : Word
  r5 : Word
  /-- R7, the linkage register (rule R20). -/
  r7 : Word
  /-- The supervisor stack pointer (rule R21). -/
  ssp : Word
  /-- The user stack pointer (rule R21). -/
  usp : Word
  /-- The program counter (rule R22). -/
  pc : Word
  /-- PSR[15] (rule R27). -/
  mode : Mode
  /-- N = PSR[2] (rule R26). -/
  ccN : Bool
  /-- Z = PSR[1] (rule R26). -/
  ccZ : Bool
  /-- P = PSR[0] (rule R26). -/
  ccP : Bool
  /-- Ordinary memory x0000..xFDFF (rule R29). -/
  mem : Memory
  /-- KBSR[15], a new character has been received (rule R30). -/
  kbReady : Bool
  /-- KBSR[14], the keyboard's interrupt enable IE (rule R30). -/
  kbIE : Bool
  /-- KBDR[7:0], the last character typed (rule R30). -/
  kbdr : Byte
  /-- DSR[15], the display can take a character (rule R30). -/
  dsrReady : Bool
  /-- DDR[7:0], the last character stored for the display (rule R30). -/
  ddr : Byte
  /-- MCR[15], the clock enable: the processor is running (rules R30, R32). -/
  clock : Bool
  /-- The display output, oldest character first (60_exceptions.md rule R182). -/
  display : List Byte
  /-- The model's own: the device events at the boundaries to come, the next boundary first (log 6). -/
  schedule : List (List DeviceEvent)
  deriving DecidableEq, Repr

/-- The launch parameters of 70_reset_and_hazards.md rule R200: RESET_PC, RESET_PRIV, RESET_REGS, INITIAL_MEMORY, the display's initial
DSR[15] and the device schedule. A default is the value `State.reset` takes (log 1 to 6). -/
structure Launch where
  /-- RESET_PC (D1) -/
  pc : Word := 0x3000#16
  /-- RESET_PRIV, default supervisor (D3) -/
  priv : Mode := .supervisor
  /-- RESET_REGS (D3) -/
  r0 : Word := 0#16
  r1 : Word := 0#16
  r2 : Word := 0#16
  r3 : Word := 0#16
  r4 : Word := 0#16
  r5 : Word := 0#16
  r7 : Word := 0#16
  ssp : Word := 0#16
  usp : Word := 0#16
  n : Bool := false
  z : Bool := false
  p : Bool := false
  /-- INITIAL_MEMORY (D2) -/
  memory : Memory := []
  /-- DSR[15] at the start, the display agent's choice (D13) -/
  displayReady : Bool := false
  /-- the sequence and timing of device events (10_state.md rule R33) -/
  schedule : List (List DeviceEvent) := []
  deriving DecidableEq, Repr

/-- The state at the start of a run with the given launch parameters: the table of 10_state.md rule R34. -/
def State.launch (l : Launch) : State :=
  { r0 := l.r0, r1 := l.r1, r2 := l.r2, r3 := l.r3, r4 := l.r4, r5 := l.r5, r7 := l.r7
    ssp := l.ssp, usp := l.usp, pc := l.pc, mode := l.priv
    ccN := l.n, ccZ := l.z, ccP := l.p
    mem := l.memory
    kbReady := false, kbIE := false, kbdr := 0#8
    dsrReady := l.displayReady, ddr := 0#8
    clock := true, display := [], schedule := l.schedule }

/-- The machine right after reset: the launch at the values the log names (10_state.md rule R34, log 1 to 6). -/
def State.reset : State := State.launch { pc := 0x3000#16 }

end Sys2Proof.Machine
end

