-- ==== Sys2Proof/Machine/Devices.lean ====
section
/-!
DEFINITION. The five device registers and the two device agents (10_state.md rule R30, 60_exceptions.md rules R180 to R184).
-/

namespace Sys2Proof.Machine

/-- A result of an access or of a step: a value, a fault or a refusal. -/
abbrev Outcome (α : Type) := Host.Outcome α Fault Refusal

/-- The device registers of Table A.3 (10_state.md rule R30). -/
inductive DeviceReg where
  | kbsr | kbdr | dsr | ddr | mcr
  deriving DecidableEq, Repr

/-- The address of a device register (10_state.md rule R30). -/
def DeviceReg.address : DeviceReg → Word
  | .kbsr => 0xFE00#16
  | .kbdr => 0xFE02#16
  | .dsr => 0xFE04#16
  | .ddr => 0xFE06#16
  | .mcr => 0xFFFE#16

/-- The device register at an address, if Table A.3 assigns one (20_memory.md rule R44). -/
def deviceAt (a : Word) : Option DeviceReg :=
  if a = 0xFE00#16 then some .kbsr
  else if a = 0xFE02#16 then some .kbdr
  else if a = 0xFE04#16 then some .dsr
  else if a = 0xFE06#16 then some .ddr
  else if a = 0xFFFE#16 then some .mcr
  else none

/-- KBSR as a word: ready, IE, fourteen zeros (60_exceptions.md rule R180). -/
def State.kbsrWord (s : State) : Word := BitVec.ofBool s.kbReady ++ BitVec.ofBool s.kbIE ++ 0b00000000000000#14

/-- KBDR as a word: the character, zero-extended (60_exceptions.md rule R180). -/
def State.kbdrWord (s : State) : Word := 0x00#8 ++ s.kbdr

/-- DSR as a word: ready and fifteen zeros (60_exceptions.md rule R182). -/
def State.dsrWord (s : State) : Word := BitVec.ofBool s.dsrReady ++ 0b000000000000000#15

/-- MCR as a word: clock enable and fifteen zeros (60_exceptions.md rule R184). -/
def State.mcrWord (s : State) : Word := BitVec.ofBool s.clock ++ 0b000000000000000#15

/-- KBSR[15] <- b -/
def State.withKbReady (s : State) (b : Bool) : State := { s with kbReady := b }

/-- KBSR[14] <- b -/
def State.withKbIE (s : State) (b : Bool) : State := { s with kbIE := b }

/-- DSR[15] <- b -/
def State.withDsrReady (s : State) (b : Bool) : State := { s with dsrReady := b }

/-- MCR[15] <- b -/
def State.withClock (s : State) (b : Bool) : State := { s with clock := b }

/-- `Display(c)`: DDR[7:0] takes the character, the display output grows by it, DSR[15] <- 0 (60_exceptions.md rule R182). -/
def State.displayChar (s : State) (c : Byte) : State :=
  { s with ddr := c, display := s.display ++ [c], dsrReady := false }

/-- LDW from a device register: the word read and the state after, since a load of KBDR clears KBSR[15]
(60_exceptions.md rules R180, R182, R184). -/
def readDevice (d : DeviceReg) (s : State) : Outcome (Word × State) :=
  match d with
  | .kbsr => .next (s.kbsrWord, s)
  | .kbdr => .next (s.kbdrWord, s.withKbReady false)
  | .dsr => .next (s.dsrWord, s)
  | .ddr => .refused .deviceMisuse
  | .mcr => .next (s.mcrWord, s)

/-- STW to a device register (60_exceptions.md rules R180, R182, R184). -/
def writeDevice (d : DeviceReg) (v : Word) (s : State) : Outcome State :=
  match d with
  | .kbsr => .next (s.withKbIE (v.getLsbD 14))
  | .kbdr => .refused .deviceMisuse
  | .dsr => .refused .deviceMisuse
  | .ddr => if s.dsrReady then .next (s.displayChar (v.extractLsb' 0 8)) else .refused .deviceMisuse
  | .mcr => .next (s.withClock (v.getLsbD 15))

/-- One device event: a key strike sets KBDR and KBSR[15] (60_exceptions.md rule R181); `DisplayReady` sets DSR[15], and where DSR[15] is
already 1 it is not enabled and changes nothing (rule R183). -/
def applyEvent (s : State) : DeviceEvent → State
  | .keyStrike c => { s with kbdr := c, kbReady := true }
  | .displayReady => s.withDsrReady true

/-- The device events of this boundary, in their order, before the interrupt condition is evaluated
(60_exceptions.md section 5; log 6). -/
def atBoundary (s : State) : State :=
  match s.schedule with
  | [] => s
  | now :: later => now.foldl applyEvent { s with schedule := later }

end Sys2Proof.Machine
end

