-- ==== Sys2Proof/Machine/Flags.lean ====
section
/-!
DEFINITION. The condition codes: how `setcc` computes them, how BR tests them, and the PSR word they are part of (00_scope.md rule R11,
10_state.md rules R26 to R28, 42_control.md rule R120).
-/

namespace Sys2Proof.Machine

/-- The three condition codes written together. -/
def State.withCC (s : State) (n z p : Bool) : State := { s with ccN := n, ccZ := z, ccP := p }

/-- `setcc(v)`: N is v[15], Z is v = 0, P is neither (00_scope.md rule R11). -/
def setcc (v : Word) (s : State) : State := s.withCC v.msb (v == 0#16) (!v.msb && v != 0#16)

/-- BR's condition: a tested condition code is set (42_control.md rule R120). -/
def branchTaken (n z p : Bool) (s : State) : Bool := (n && s.ccN) || (z && s.ccZ) || (p && s.ccP)

/-- The bit a mode is in PSR[15] (10_state.md rule R27). -/
def Mode.bit : Mode → Bool
  | .supervisor => false
  | .user => true

/-- The mode a PSR[15] bit names (10_state.md rule R27). -/
def Mode.ofBit (b : Bool) : Mode := if b then .user else .supervisor

/-- The PSR as one word: PSR[15], twelve zeros, N, Z, P (10_state.md rules R27, R28, 60_exceptions.md rule R172). -/
def State.psr (s : State) : Word :=
  BitVec.ofBool s.mode.bit ++ 0b000000000000#12 ++ BitVec.ofBool s.ccN ++ BitVec.ofBool s.ccZ ++ BitVec.ofBool s.ccP

/-- PSR <- a word: bit 15 and bits 2:0 are taken, bits 14:3 ignored (10_state.md rule R28, 43_system.md rule R140). -/
def State.withPSR (s : State) (w : Word) : State :=
  { s with mode := Mode.ofBit (w.getLsbD 15), ccN := w.getLsbD 2, ccZ := w.getLsbD 1, ccP := w.getLsbD 0 }

end Sys2Proof.Machine
end

