-- ==== Sys2Proof/Machine/Memory.lean ====
section
/-!
DEFINITION. Memory as a canonical list of address and byte: reading one byte, writing one byte, little-endian words, and the
predicate that the list is in canonical form (10_state.md rule R29, 20_memory.md rules R40, R41, R43).
-/

namespace Sys2Proof.Machine

/-- What a location that is not listed reads as. The sources give memory no initial contents (D2); with a fixed byte here a
list stands for every total map of x0000..xFDFF to bytes (DESIGN CHOICE, log 4). -/
def Memory.unlisted : Byte := 0x00#8

/-- `mem[a]`: the byte at an address (20_memory.md rule R40). -/
def Memory.get : Memory → Nat → Byte
  | [], _ => Memory.unlisted
  | (a, b) :: m, k => if a = k then b else Memory.get m k

/-- A listing of one byte at the head, left out when it is what an unlisted location reads as. -/
def Memory.cons (k : Nat) (v : Byte) (m : Memory) : Memory :=
  if v = Memory.unlisted then m else (k, v) :: m

/-- `mem[k] <- v`: replace the byte at an address and no other (20_memory.md rule R43). -/
def Memory.set : Memory → Nat → Byte → Memory
  | [], k, v => Memory.cons k v []
  | (a, b) :: m, k, v =>
    if k < a then Memory.cons k v ((a, b) :: m)
    else if k = a then Memory.cons k v m
    else (a, b) :: Memory.set m k v

/-- The list from an address upward is canonical: addresses strictly rising, none below `lo`, no byte an unlisted one reads as. -/
def Memory.wfFrom : Nat → Memory → Bool
  | _, [] => true
  | lo, (a, b) :: m => decide (lo ≤ a) && b != Memory.unlisted && Memory.wfFrom (a + 1) m

/-- The memory is in canonical form, so that equal memories are equal lists. -/
def Memory.wf (m : Memory) : Bool := Memory.wfFrom 0 m

/-- Every listed address lies in ordinary memory x0000..xFDFF (20_memory.md rule R46). -/
def Memory.ordinary (m : Memory) : Bool := m.all fun c => decide (c.1 < 0xFE00)

/-- The word at an address: bits [7:0] from it, bits [15:8] from the next (20_memory.md rule R41). -/
def Memory.getWord (m : Memory) (a : Word) : Word := m.get (a.toNat + 1) ++ m.get a.toNat

/-- Store a word: bits [7:0] at the address, bits [15:8] at the next (20_memory.md rule R41). -/
def Memory.setWord (m : Memory) (a v : Word) : Memory :=
  (m.set a.toNat (v.extractLsb' 0 8)).set (a.toNat + 1) (v.extractLsb' 8 8)

end Sys2Proof.Machine
end

