-- ==== Sys2Proof/Machine/Operands.lean ====
section
/-!
DEFINITION. Operand forms: sign and zero extension, the two shift functions of Table A.1, the alignment test, and how each immediate
becomes a 16-bit value (00_scope.md rules R7 to R10, 30_encoding.md rule R70, 41_data_movement.md rule R105).
-/

namespace Sys2Proof.Machine

/-- `SEXT`: sign-extend to 16 bits (00_scope.md rule R7). -/
def sext {n : Nat} (v : BitVec n) : Word := v.signExtend 16

/-- `ZEXT`: zero-extend to 16 bits (00_scope.md rule R8). -/
def zext {n : Nat} (v : BitVec n) : Word := v.setWidth 16

/-- `LSHF(A, b)`: shift left, zeros enter at the right (00_scope.md rule R9). -/
def lshfWord (a : Word) (b : Nat) : Word := a <<< b

/-- `RSHF(A, b, s)`: shift right, the vacated positions are filled with the bit `s` (00_scope.md rule R10). -/
def rshfWord (a : Word) (b : Nat) (s : Bool) : Word :=
  (a >>> b) ||| (if s then ~~~(BitVec.allOnes 16 >>> b) else 0#16)

/-- The word is odd, so it is not the address of a word (20_memory.md rule R45). -/
def isOdd (a : Word) : Bool := a.getLsbD 0

/-- imm5 as the second operand (30_encoding.md rule R70). -/
def immOperand (imm5 : BitVec 5) : Word := sext imm5

/-- Base + byte offset, the address of LDB and STB (41_data_movement.md rule R105). -/
def byteAddress (base : Word) (boffset6 : BitVec 6) : Word := base + sext boffset6

/-- Base + word offset, the address of LDW and STW (41_data_movement.md rule R105). -/
def wordAddress (base : Word) (offset6 : BitVec 6) : Word := base + lshfWord (sext offset6) 1

/-- PC-relative with a nine-bit offset, for BR and LEA; `pc` is the incremented PC (41_data_movement.md rule R105, 42_control.md rule R120). -/
def pcRelative9 (pc : Word) (offset9 : BitVec 9) : Word := pc + lshfWord (sext offset9) 1

/-- PC-relative with an eleven-bit offset, for JSR (42_control.md rule R124). -/
def pcRelative11 (pc : Word) (offset11 : BitVec 11) : Word := pc + lshfWord (sext offset11) 1

/-- The address of the trap vector table entry (43_system.md rule R142). -/
def trapEntry (trapvect8 : BitVec 8) : Word := lshfWord (zext trapvect8) 1

/-- The address of the interrupt vector table entry: x0200 + 2 * INTV (60_exceptions.md rule R172). -/
def interruptEntry (intv : BitVec 8) : Word := 0x0200#16 + lshfWord (zext intv) 1

/-- The low byte of a register, the operand of STB (41_data_movement.md rule R103). -/
def lowByte (v : Word) : Byte := v.extractLsb' 0 8

end Sys2Proof.Machine
end

