-- ==== Sys2Proof/Machine/Ops.lean ====
section
/-!
DEFINITION. The named operations over registers and memory: register access with R6 banked, MemRead and MemWrite, the fetch, the interrupt
condition, interrupt initiation and the return from an interrupt (10_state.md, 20_memory.md, 60_exceptions.md).
-/

namespace Sys2Proof.Machine

/-- Go on with the value of an outcome, or stop where it stops. -/
def andThen {α β : Type} (x : Outcome α) (f : α → Outcome β) : Outcome β :=
  match x with
  | .next a => f a
  | .fault e => .fault e
  | .refused e => .refused e

/-- Go on unless the condition holds, which is the named fault (`raise`, 00_scope.md rule R14). -/
def faultIf {α : Type} (c : Bool) (e : Fault) (x : Outcome α) : Outcome α := if c then .fault e else x

/-! ### Registers -/

/-- `x[i]`: register number 6 reads SSP in supervisor mode and USP in user mode (10_state.md rules R20, R21). -/
def getReg (s : State) : Reg → Word
  | .r0 => s.r0
  | .r1 => s.r1
  | .r2 => s.r2
  | .r3 => s.r3
  | .r4 => s.r4
  | .r5 => s.r5
  | .r6 => match s.mode with
    | .supervisor => s.ssp
    | .user => s.usp
  | .r7 => s.r7

/-- `x[i] <- v`: register number 6 writes SSP in supervisor mode and USP in user mode (10_state.md rules R20, R21). -/
def setReg (s : State) (r : Reg) (v : Word) : State :=
  match r with
  | .r0 => { s with r0 := v }
  | .r1 => { s with r1 := v }
  | .r2 => { s with r2 := v }
  | .r3 => { s with r3 := v }
  | .r4 => { s with r4 := v }
  | .r5 => { s with r5 := v }
  | .r6 => match s.mode with
    | .supervisor => { s with ssp := v }
    | .user => { s with usp := v }
  | .r7 => { s with r7 := v }

/-- `pc <- v` -/
def State.withPC (s : State) (v : Word) : State := { s with pc := v }

/-- SSP <- v, whatever the mode. -/
def State.withSSP (s : State) (v : Word) : State := { s with ssp := v }

/-- PSR[15] <- the bit of a mode. -/
def State.withMode (s : State) (m : Mode) : State := { s with mode := m }

/-- The memory replaced. -/
def State.withMem (s : State) (m : Memory) : State := { s with mem := m }

/-- The result of an operate or load instruction: DR is written, then the condition codes are set from the same value
(00_scope.md rule R11, 40_operate.md rule R90). -/
def writeResult (dr : Reg) (v : Word) (s : State) : State := setcc v (setReg s dr v)

/-! ### Memory (20_memory.md) -/

/-- The address lies in the device region xFE00..xFFFF (20_memory.md rules R44, R46). -/
def inDeviceRegion (a : Word) : Bool := decide (0xFE00 ≤ a.toNat)

/-- `MemRead(a, 1)` (20_memory.md rules R40, R44). -/
def readByte (s : State) (a : Word) : Outcome Byte :=
  if inDeviceRegion a then .refused .unmappedIO else .next (s.mem.get a.toNat)

/-- `MemWrite(a, 1, v)` (20_memory.md rules R43, R44). -/
def writeByte (s : State) (a : Word) (v : Byte) : Outcome State :=
  if inDeviceRegion a then .refused .unmappedIO else .next (s.withMem (s.mem.set a.toNat v))

/-- `MemRead(a, 2)` of a word that must lie in ordinary memory: a fetch, a vector-table entry or a stack word; `a` is even
(20_memory.md rules R41, R42, R44). -/
def readMemWord (s : State) (a : Word) : Outcome Word :=
  if inDeviceRegion a then .refused .unmappedIO else .next (s.mem.getWord a)

/-- `MemWrite(a, 2, v)` of a stack word, which must lie in ordinary memory; `a` is even (20_memory.md rules R41, R44). -/
def writeMemWord (s : State) (a v : Word) : Outcome State :=
  if inDeviceRegion a then .refused .unmappedIO else .next (s.withMem (s.mem.setWord a v))

/-- `MemRead(a, 2)` for LDW: memory, or a device register; `a` is even (20_memory.md rules R41, R44). -/
def loadWord (s : State) (a : Word) : Outcome (Word × State) :=
  if inDeviceRegion a then
    match deviceAt a with
    | some d => readDevice d s
    | none => .refused .unmappedIO
  else .next (s.mem.getWord a, s)

/-- `MemWrite(a, 2, v)` for STW: memory, or a device register; `a` is even (20_memory.md rules R41, R44). -/
def storeWord (s : State) (a v : Word) : Outcome State :=
  if inDeviceRegion a then
    match deviceAt a with
    | some d => writeDevice d v s
    | none => .refused .unmappedIO
  else .next (s.withMem (s.mem.setWord a v))

/-! ### Fetch and decode -/

/-- Fetch the word at pc and decode it (10_state.md rule R23, 20_memory.md rule R42). A fetch in the device region is refused; a fetch at an odd
address, which no run reaches, faults (log 10). -/
def fetchInstr (s : State) : Outcome Instr :=
  andThen (readMemWord s s.pc) fun ir =>
    faultIf (isOdd s.pc) .unalignedPC
      (match decodeWord Config.sbzPolicy ir with
       | .ok i => .next i
       | .error _ => .fault (.reservedEncoding ir))

/-- `pc <- A + 2`, the incremented PC (10_state.md rules R23, R24). -/
def advancePC (s : State) : State := s.withPC (s.pc + 2#16)

/-! ### Calls -/

/-- A subroutine or service-routine call: R7 takes the linkage and pc the target (42_control.md rules R124, R125, 43_system.md rule R142). -/
def linkAndJump (s : State) (link target : Word) : State := (setReg s .r7 link).withPC target

/-- The register target of JSRR, read after or before R7 takes the linkage (42_control.md rule R125, D8). -/
def jsrrTarget (order : JsrrOrder) (s : State) (link : Word) (base : Reg) : Word :=
  match order with
  | .after => getReg (setReg s .r7 link) base
  | .before => getReg s base

/-! ### The interrupt (60_exceptions.md) -/

/-- The interrupt request: the level KBSR[15] AND KBSR[14] (60_exceptions.md rule R170). -/
def interruptRequest (s : State) : Bool := s.kbReady && s.kbIE

/-- The condition under which the interrupt is initiated at this boundary, for a value of SUPERVISOR_INTERRUPTIBLE
(60_exceptions.md rule R171). -/
def interruptTaken (supervisorInterruptible : Bool) (s : State) : Bool :=
  interruptRequest s && (s.mode.bit || supervisorInterruptible)

/-- INTV of the keyboard (10_state.md rule R31, 60_exceptions.md rule R170). -/
def keyboardVector : BitVec 8 := 0x40#8

/-- Interrupt initiation with a given vector, in the order of the pseudocode of 60_exceptions.md rule R172: the PSR and PC of the interrupted
process go onto the supervisor stack, PSR first, the mode becomes supervisor and pc the vector-table entry. -/
def initiateInterrupt (intv : BitVec 8) (s : State) : Outcome State :=
  faultIf (isOdd s.ssp) .illegalOperandAddress
    (andThen (readMemWord s (interruptEntry intv)) fun t =>
      faultIf (isOdd t) .unalignedPC
        (andThen (writeMemWord s (s.ssp - 2#16) s.psr) fun s1 =>
          andThen (writeMemWord s1 (s.ssp - 4#16) s.pc) fun s2 =>
            .next (((s2.withSSP (s.ssp - 4#16)).withMode .supervisor).withPC t)))

/-- The return from an interrupt, in the order of the pseudocode of 43_system.md rule R140: the top two words of the supervisor stack are popped,
the PC first, then the PSR. -/
def returnFromInterrupt (s : State) : Outcome State :=
  faultIf s.mode.bit .privilegeModeViolation
    (faultIf (isOdd s.ssp) .illegalOperandAddress
      (andThen (readMemWord s s.ssp) fun newpc =>
        andThen (readMemWord s (s.ssp + 2#16)) fun temp =>
          faultIf (isOdd newpc) .unalignedPC
            (.next (((s.withPC newpc).withSSP (s.ssp + 4#16)).withPSR temp))))

end Sys2Proof.Machine
end

