-- ==== Sys2Proof/Machine/Control.lean ====
section
/-!
DEFINITION. The control instructions: BR, JMP, RET, JSR, JSRR (42_control.md). `s.pc` is the incremented PC (rule R121).
-/

namespace Sys2Proof.Machine

/-- BR: pc takes the target if a tested condition code is set, else stays at the incremented PC (42_control.md rule R120). -/
def execBr (n z p : Bool) (offset9 : BitVec 9) (s : State) : Outcome State :=
  .next (if branchTaken n z p s then s.withPC (pcRelative9 s.pc offset9) else s)

/-- JMP BaseR; an odd base register is an illegal operand address (42_control.md rule R122). -/
def execJmp (base : Reg) (s : State) : Outcome State :=
  faultIf (isOdd (getReg s base)) .illegalOperandAddress (.next (s.withPC (getReg s base)))

/-- RET: JMP through R7 (42_control.md rule R126). -/
def execRet (s : State) : Outcome State :=
  faultIf (isOdd (getReg s .r7)) .illegalOperandAddress (.next (s.withPC (getReg s .r7)))

/-- JSR LABEL: R7 takes the incremented PC, pc the target (42_control.md rule R124). -/
def execJsr (offset11 : BitVec 11) (s : State) : Outcome State :=
  .next (linkAndJump s s.pc (pcRelative11 s.pc offset11))

/-- JSRR BaseR: R7 takes the incremented PC, pc the register target; an odd target is an illegal operand address and nothing is
written (42_control.md rule R125). -/
def execJsrr (base : Reg) (s : State) : Outcome State :=
  faultIf (isOdd (jsrrTarget Config.jsrrOrder s s.pc base)) .illegalOperandAddress
    (.next (linkAndJump s s.pc (jsrrTarget Config.jsrrOrder s s.pc base)))

end Sys2Proof.Machine
end

