-- ==== Sys2Proof/Machine/DataMovement.lean ====
section
/-!
DEFINITION. The data movement instructions: LDB, LDW, LEA, STB, STW (41_data_movement.md). The base register is read before DR is
written, so DR may equal BaseR (rule R105); pc already holds the incremented PC and stays.
-/

namespace Sys2Proof.Machine

/-- LDB DR, BaseR, boffset6: one byte, sign-extended (41_data_movement.md rule R100). -/
def execLdb (dr base : Reg) (boffset6 : BitVec 6) (s : State) : Outcome State :=
  andThen (readByte s (byteAddress (getReg s base) boffset6)) fun b => .next (writeResult dr (sext b) s)

/-- LDW DR, BaseR, offset6: one word of memory or one device register; an odd base register is an illegal operand address
(41_data_movement.md rule R101). -/
def execLdw (dr base : Reg) (offset6 : BitVec 6) (s : State) : Outcome State :=
  faultIf (isOdd (getReg s base)) .illegalOperandAddress
    (andThen (loadWord s (wordAddress (getReg s base) offset6)) fun r => .next (writeResult dr r.1 r.2))

/-- LEA DR, LABEL: the address itself, from the incremented PC (41_data_movement.md rule R102). -/
def execLea (dr : Reg) (offset9 : BitVec 9) (s : State) : Outcome State :=
  .next (writeResult dr (pcRelative9 s.pc offset9) s)

/-- STB SR, BaseR, boffset6: the low byte of SR (41_data_movement.md rule R103). -/
def execStb (sr base : Reg) (boffset6 : BitVec 6) (s : State) : Outcome State :=
  writeByte s (byteAddress (getReg s base) boffset6) (lowByte (getReg s sr))

/-- STW SR, BaseR, offset6: one word of memory or one device register; an odd base register is an illegal operand address
(41_data_movement.md rule R104). -/
def execStw (sr base : Reg) (offset6 : BitVec 6) (s : State) : Outcome State :=
  faultIf (isOdd (getReg s base)) .illegalOperandAddress
    (storeWord s (wordAddress (getReg s base) offset6) (getReg s sr))

end Sys2Proof.Machine
end

