-- ==== Sys2Proof/Machine/Operate.lean ====
section
/-!
DEFINITION. The operate instructions: ADD, AND, XOR, NOT, LSHF, RSHFL, RSHFA (40_operate.md). Each computes a 16-bit value, writes it to
DR and sets the condition codes from it; pc already holds the incremented PC and stays (10_state.md rule R23).
-/

namespace Sys2Proof.Machine

/-- ADD DR, SR1, SR2 (40_operate.md rule R80). -/
def execAddReg (dr sr1 sr2 : Reg) (s : State) : Outcome State :=
  .next (writeResult dr (getReg s sr1 + getReg s sr2) s)

/-- ADD DR, SR1, imm5 (40_operate.md rule R81). -/
def execAddImm (dr sr1 : Reg) (imm5 : BitVec 5) (s : State) : Outcome State :=
  .next (writeResult dr (getReg s sr1 + immOperand imm5) s)

/-- AND DR, SR1, SR2 (40_operate.md rule R82). -/
def execAndReg (dr sr1 sr2 : Reg) (s : State) : Outcome State :=
  .next (writeResult dr (getReg s sr1 &&& getReg s sr2) s)

/-- AND DR, SR1, imm5 (40_operate.md rule R83). -/
def execAndImm (dr sr1 : Reg) (imm5 : BitVec 5) (s : State) : Outcome State :=
  .next (writeResult dr (getReg s sr1 &&& immOperand imm5) s)

/-- XOR DR, SR1, SR2 (40_operate.md rule R88). -/
def execXorReg (dr sr1 sr2 : Reg) (s : State) : Outcome State :=
  .next (writeResult dr (getReg s sr1 ^^^ getReg s sr2) s)

/-- XOR DR, SR1, imm5 (40_operate.md rule R89). -/
def execXorImm (dr sr1 : Reg) (imm5 : BitVec 5) (s : State) : Outcome State :=
  .next (writeResult dr (getReg s sr1 ^^^ immOperand imm5) s)

/-- NOT DR, SR (40_operate.md rule R84). -/
def execNot (dr sr : Reg) (s : State) : Outcome State :=
  .next (writeResult dr (~~~getReg s sr) s)

/-- LSHF DR, SR, amount4 (40_operate.md rule R85). -/
def execLshf (dr sr : Reg) (amount4 : BitVec 4) (s : State) : Outcome State :=
  .next (writeResult dr (lshfWord (getReg s sr) amount4.toNat) s)

/-- RSHFL DR, SR, amount4: zeros enter at the left (40_operate.md rule R86). -/
def execRshfl (dr sr : Reg) (amount4 : BitVec 4) (s : State) : Outcome State :=
  .next (writeResult dr (rshfWord (getReg s sr) amount4.toNat false) s)

/-- RSHFA DR, SR, amount4: the sign of the source enters at the left (40_operate.md rule R87). -/
def execRshfa (dr sr : Reg) (amount4 : BitVec 4) (s : State) : Outcome State :=
  .next (writeResult dr (rshfWord (getReg s sr) amount4.toNat (getReg s sr).msb) s)

end Sys2Proof.Machine
end

