-- ==== Sys2Proof/Machine/System.lean ====
section
/-!
DEFINITION. The system instructions TRAP and RTI and the two reserved opcodes (43_system.md).
-/

namespace Sys2Proof.Machine

/-- TRAP trapvect8: R7 takes the incremented PC, pc the word of the trap vector table entry; the mode stays
(43_system.md rule R142). An odd entry is `unalignedPC` and nothing is written (D9). -/
def execTrap (trapvect8 : BitVec 8) (s : State) : Outcome State :=
  andThen (readMemWord s (trapEntry trapvect8)) fun t =>
    faultIf (isOdd t) .unalignedPC (.next (linkAndJump s s.pc t))

/-- RTI: the return from an interrupt (43_system.md rule R140). -/
def execRti (s : State) : Outcome State := returnFromInterrupt s

/-- Opcode 1010: reserved for future use, no effect is given (43_system.md rule R144). -/
def execReserved1010 (low : BitVec 12) (_s : State) : Outcome State :=
  .fault (.illegalOpcode (0b1010#4 ++ low))

/-- Opcode 1011: reserved for future use, no effect is given (43_system.md rule R144). -/
def execReserved1011 (low : BitVec 12) (_s : State) : Outcome State :=
  .fault (.illegalOpcode (0b1011#4 ++ low))

end Sys2Proof.Machine
end

