-- ==== Sys2Proof/Machine/Dispatch.lean ====
section
/-!
DEFINITION. One arm for each instruction, each a direct call of its meaning. The state's pc is the incremented PC
(10_state.md rule R23).
-/

namespace Sys2Proof.Machine

def exec (i : Instr) (s : State) : Host.Outcome State Fault Refusal :=
  match i with
  | .addReg dr sr1 sr2 => Sys2Proof.Machine.execAddReg dr sr1 sr2 s
  | .addImm dr sr1 imm5 => Sys2Proof.Machine.execAddImm dr sr1 imm5 s
  | .andReg dr sr1 sr2 => Sys2Proof.Machine.execAndReg dr sr1 sr2 s
  | .andImm dr sr1 imm5 => Sys2Proof.Machine.execAndImm dr sr1 imm5 s
  | .br n z p offset9 => Sys2Proof.Machine.execBr n z p offset9 s
  | .ret => Sys2Proof.Machine.execRet s
  | .jmp base => Sys2Proof.Machine.execJmp base s
  | .jsr offset11 => Sys2Proof.Machine.execJsr offset11 s
  | .jsrr base => Sys2Proof.Machine.execJsrr base s
  | .ldb dr base boffset6 => Sys2Proof.Machine.execLdb dr base boffset6 s
  | .ldw dr base offset6 => Sys2Proof.Machine.execLdw dr base offset6 s
  | .lea dr offset9 => Sys2Proof.Machine.execLea dr offset9 s
  | .notReg dr sr => Sys2Proof.Machine.execNot dr sr s
  | .rti => Sys2Proof.Machine.execRti s
  | .lshf dr sr amount4 => Sys2Proof.Machine.execLshf dr sr amount4 s
  | .rshfl dr sr amount4 => Sys2Proof.Machine.execRshfl dr sr amount4 s
  | .rshfa dr sr amount4 => Sys2Proof.Machine.execRshfa dr sr amount4 s
  | .stb sr base boffset6 => Sys2Proof.Machine.execStb sr base boffset6 s
  | .stw sr base offset6 => Sys2Proof.Machine.execStw sr base offset6 s
  | .trap trapvect8 => Sys2Proof.Machine.execTrap trapvect8 s
  | .xorReg dr sr1 sr2 => Sys2Proof.Machine.execXorReg dr sr1 sr2 s
  | .xorImm dr sr1 imm5 => Sys2Proof.Machine.execXorImm dr sr1 imm5 s
  | .reserved1010 low => Sys2Proof.Machine.execReserved1010 low s
  | .reserved1011 low => Sys2Proof.Machine.execReserved1011 low s

end Sys2Proof.Machine
end

