-- ==== Sys2Proof/Machine/Step.lean ====
section
/-!
DEFINITION. One step of the machine: device events, then interrupt initiation or one instruction (10_state.md rules R23, R32, 60_exceptions.md
rules R171, R172); and the placing of an instruction where the next step fetches it.
-/

namespace Sys2Proof.Machine

/-- One step. A stopped processor changes nothing (10_state.md rule R32, log 8). A running one lets the device events of this boundary happen,
then initiates the keyboard interrupt if its condition holds (60_exceptions.md rule R171), else fetches, increments the PC and
executes one instruction (10_state.md rule R23). -/
def step (s : State) : Host.Outcome State Fault Refusal :=
  if s.clock then
    let b := atBoundary s
    if interruptTaken Config.supervisorInterruptible b then initiateInterrupt keyboardVector b
    else andThen (fetchInstr b) fun i => exec i (advancePC b)
  else .next s

/-- `s` with the instruction of bits `w` stored at pc, low byte first, and made ready to fetch it at the very next step: the clock enabled, no
device event at the coming boundary, and IE cleared if an interrupt would be initiated there. At `State.reset` only the memory changes (log 7). -/
def State.withFetchWord (s : State) (nbits w : Nat) : State :=
  { s with
    mem := if inDeviceRegion s.pc then s.mem else s.mem.setWord s.pc (BitVec.ofNat 16 (w % 2 ^ nbits))
    clock := true
    kbIE := s.kbIE && !interruptTaken Config.supervisorInterruptible s
    schedule := if s.schedule.isEmpty then [] else [] :: s.schedule }

end Sys2Proof.Machine
end

