-- ==== Sys2Proof/Assembly.lean ====
section
/-!
DEFINITION. The assembly language of 30_encoding.md rules R73 and R74, after lexing: one constructor for each syntax line, registers by name,
immediates as integers, labels as the addresses they stand for. How text is split into these is not in the sources
(91_not_in_source.md N12).
-/

namespace Sys2Proof

/-- The second source operand of ADD, AND and XOR: a register or an immediate (30_encoding.md rule R73). -/
inductive SourceOperand where
  | reg (r : Reg)
  | imm (v : Int)
  deriving DecidableEq, Repr

/-- The eight branch mnemonics (30_encoding.md rule R74). -/
inductive BranchName where
  | brN | brZ | brP | brZP | brNP | brNZ | brNZP | br
  deriving DecidableEq, Repr

/-- The bits n, z, p a branch mnemonic sets; `BR` is `BRnzp` (30_encoding.md rule R74). -/
def BranchName.bits : BranchName → Bool × Bool × Bool
  | .brN => (true, false, false)
  | .brZ => (false, true, false)
  | .brP => (false, false, true)
  | .brZP => (false, true, true)
  | .brNP => (true, false, true)
  | .brNZ => (true, true, false)
  | .brNZP => (true, true, true)
  | .br => (true, true, true)

/-- The assembler names of five trap vectors (30_encoding.md rule R74, 43_system.md rule R143). -/
inductive ServiceName where
  | getc | out | puts | inChar | halt
  deriving DecidableEq, Repr

/-- The trap vector of a named service routine (30_encoding.md rule R74). -/
def ServiceName.vector : ServiceName → BitVec 8
  | .getc => 0x20
  | .out => 0x21
  | .puts => 0x22
  | .inChar => 0x23
  | .halt => 0x25

/-- One line of assembly (30_encoding.md rules R73, R74). -/
inductive Asm where
  | add (dr sr1 : Reg) (src : SourceOperand)
  | and (dr sr1 : Reg) (src : SourceOperand)
  | xor (dr sr1 : Reg) (src : SourceOperand)
  | not (dr sr : Reg)
  | lshf (dr sr : Reg) (amount : Int)
  | rshfl (dr sr : Reg) (amount : Int)
  | rshfa (dr sr : Reg) (amount : Int)
  | branch (name : BranchName) (label : Word)
  | jmp (base : Reg)
  | ret
  | jsr (label : Word)
  | jsrr (base : Reg)
  | ldb (dr base : Reg) (boffset : Int)
  | ldw (dr base : Reg) (offset : Int)
  | stb (sr base : Reg) (boffset : Int)
  | stw (sr base : Reg) (offset : Int)
  | lea (dr : Reg) (label : Word)
  | trap (vector : Int)
  | service (name : ServiceName)
  | rti
  deriving DecidableEq, Repr

/-- A signed operand in the range its field can hold (30_encoding.md rule R73). -/
def signedField (n : Nat) (v : Int) : Option (BitVec n) :=
  if -(2 : Int) ^ (n - 1) ≤ v ∧ v < (2 : Int) ^ (n - 1) then some (BitVec.ofInt n v) else none

/-- An unsigned operand in the range its field can hold (30_encoding.md rule R73). -/
def unsignedField (n : Nat) (v : Int) : Option (BitVec n) :=
  if 0 ≤ v ∧ v < (2 : Int) ^ n then some (BitVec.ofInt n v) else none

/-- The field of a LABEL operand: (address of LABEL - (address of the instruction + 2)) / 2, an integer in the field's range. The difference is
taken modulo 2^16 and read as signed, as targets wrap (30_encoding.md rule R73, 10_state.md rule R24; log 20). -/
def labelField (n : Nat) (pos label : Word) : Option (BitVec n) :=
  if (label - (pos + 2#16)).toInt % 2 = 0 then signedField n ((label - (pos + 2#16)).toInt / 2) else none

/-- The instruction of an operate line with a register or immediate second operand. -/
def assembleOperate (rform : Reg → Reg → Reg → Instr) (iform : Reg → Reg → BitVec 5 → Instr) (dr sr1 : Reg) :
    SourceOperand → Option Instr
  | .reg r => some (rform dr sr1 r)
  | .imm v => (signedField 5 v).map (iform dr sr1)

/-- The instruction a line stands for at the address `pos`, if its operands fit their fields (30_encoding.md rules R73, R74). -/
def assemble (pos : Word) : Asm → Option Instr
  | .add dr sr1 src => assembleOperate .addReg .addImm dr sr1 src
  | .and dr sr1 src => assembleOperate .andReg .andImm dr sr1 src
  | .xor dr sr1 src => assembleOperate .xorReg xorOrNot dr sr1 src
  | .not dr sr => some (.notReg dr sr)
  | .lshf dr sr amount => (unsignedField 4 amount).map (.lshf dr sr)
  | .rshfl dr sr amount => (unsignedField 4 amount).map (.rshfl dr sr)
  | .rshfa dr sr amount => (unsignedField 4 amount).map (.rshfa dr sr)
  | .branch name label => (labelField 9 pos label).map (.br name.bits.1 name.bits.2.1 name.bits.2.2)
  | .jmp base => some (jmpOrRet base)
  | .ret => some .ret
  | .jsr label => (labelField 11 pos label).map .jsr
  | .jsrr base => some (.jsrr base)
  | .ldb dr base boffset => (signedField 6 boffset).map (.ldb dr base)
  | .ldw dr base offset => (signedField 6 offset).map (.ldw dr base)
  | .stb sr base boffset => (signedField 6 boffset).map (.stb sr base)
  | .stw sr base offset => (signedField 6 offset).map (.stw sr base)
  | .lea dr label => (labelField 9 pos label).map (.lea dr)
  | .trap vector => (unsignedField 8 vector).map .trap
  | .service name => some (.trap name.vector)
  | .rti => some .rti

end Sys2Proof
end

