-- ==== Sys2Proof/Safety.lean ====
section
/-!
DEFINITION. The terms claims are stated in: the invariant of the machine, a valid launch, runs, the frames ("what stays as it was") and the
words and assembly lines that stand for an instruction.
-/

namespace Sys2Proof.Machine

/-! ### Invariant, launch, runs -/

/-- What every step keeps: memory is canonical and lists ordinary locations only, and pc is even (10_state.md rules R25, R29). -/
abbrev State.Inv (s : State) : Prop := s.mem.wf = true ∧ s.mem.ordinary = true ∧ isOdd s.pc = false

/-- The launch parameters 70_reset_and_hazards.md rule R201 admits: RESET_PC even and outside the device region, INITIAL_MEMORY a map of
ordinary memory in canonical form. -/
abbrev Launch.Valid (l : Launch) : Prop :=
  l.memory.wf = true ∧ l.memory.ordinary = true ∧ isOdd l.pc = false ∧ inDeviceRegion l.pc = false

/-- `t` is reached from `s` in some number of steps, none of which stops. -/
inductive Reaches (s : State) : State → Prop where
  | start : Reaches s s
  | more {t u : State} : Reaches s t → step t = .next u → Reaches s u

/-- Right before an instruction is fetched: running, this boundary's events have left the state `b`, no interrupt is initiated
(10_state.md rule R23, 60_exceptions.md rule R171). -/
abbrev FetchesAt (s b : State) : Prop :=
  s.clock = true ∧ atBoundary s = b ∧ interruptTaken Config.supervisorInterruptible b = false

/-! ### Frames -/

/-- The stack pointer that register number 6 does not name in the present mode (10_state.md rule R21). -/
def idleSP (s : State) : Word :=
  match s.mode with
  | .supervisor => s.usp
  | .user => s.ssp

/-- Every byte of memory reads as before. -/
abbrev SameMemory (s t : State) : Prop := ∀ a : Nat, t.mem.get a = s.mem.get a

/-- Every byte of memory outside the given addresses reads as before. -/
abbrev SameMemoryOutside (s t : State) (at_ : List Nat) : Prop := ∀ a : Nat, a ∉ at_ → t.mem.get a = s.mem.get a

/-- The little-endian word at an address, from its two bytes as numbers (20_memory.md rule R41). -/
def wordAt (m : Memory) (a : Word) : Word :=
  BitVec.ofNat 16 ((m.get a.toNat).toNat + 256 * (m.get (a.toNat + 1)).toNat)

/-- A word with the given bit 15 and zeros below, as a device status register reads. -/
def bit15Word (b : Bool) : Word := if b then 0x8000#16 else 0x0000#16

/-- The condition codes are as before. -/
structure SameCC (s t : State) : Prop where
  n : t.ccN = s.ccN
  z : t.ccZ = s.ccZ
  p : t.ccP = s.ccP

/-- The device registers, the display output and the schedule are as before. -/
structure SameDevices (s t : State) : Prop where
  kbReady : t.kbReady = s.kbReady
  kbIE : t.kbIE = s.kbIE
  kbdr : t.kbdr = s.kbdr
  dsrReady : t.dsrReady = s.dsrReady
  ddr : t.ddr = s.ddr
  clock : t.clock = s.clock
  display : t.display = s.display
  schedule : t.schedule = s.schedule

/-- The mode and every register outside the list are as before, the stack pointer that is not selected among them. -/
structure SameRegsExcept (s t : State) (written : List Reg) : Prop where
  regs : ∀ r : Reg, r ∉ written → getReg t r = getReg s r
  idle : idleSP t = idleSP s
  mode : t.mode = s.mode

/-- The condition codes say of a value, as a 16-bit 2's complement integer, whether it is negative, zero or positive
(00_scope.md rule R11, 40_operate.md rule R90). -/
structure CCFrom (t : State) (v : Word) : Prop where
  n : t.ccN = true ↔ v.toInt < 0
  z : t.ccZ = true ↔ v.toInt = 0
  p : t.ccP = true ↔ 0 < v.toInt

/-- Exactly one of N, Z, P is 1. -/
def OneHotCC (t : State) : Prop :=
  (t.ccN = true ∧ t.ccZ = false ∧ t.ccP = false) ∨ (t.ccN = false ∧ t.ccZ = true ∧ t.ccP = false) ∨
    (t.ccN = false ∧ t.ccZ = false ∧ t.ccP = true)

/-- `s` to `t` writes `v` to DR, sets the condition codes from `v` and changes nothing else: operate instructions, LEA and loads from
memory. -/
structure WritesResult (s t : State) (dr : Reg) (v : Word) : Prop where
  result : getReg t dr = v
  regs : SameRegsExcept s t [dr]
  cc : CCFrom t v
  pc : t.pc = s.pc
  mem : SameMemory s t
  dev : SameDevices s t

/-- `s` to `t` moves pc to the target and changes nothing else. -/
structure JumpsTo (s t : State) (target : Word) : Prop where
  pc : t.pc = target
  regs : SameRegsExcept s t []
  cc : SameCC s t
  mem : SameMemory s t
  dev : SameDevices s t

/-- `s` to `t` writes the incremented PC to R7, moves pc to the target and changes nothing else. -/
structure CallsTo (s t : State) (target : Word) : Prop where
  pc : t.pc = target
  link : getReg t .r7 = s.pc
  regs : SameRegsExcept s t [.r7]
  cc : SameCC s t
  mem : SameMemory s t
  dev : SameDevices s t

/-- `s` to `t` changes no register, condition code, mode or pc: the frame of a store. -/
structure SameProcessor (s t : State) : Prop where
  regs : SameRegsExcept s t []
  cc : SameCC s t
  pc : t.pc = s.pc

/-- The state with the other privilege mode and the two stack pointers exchanged, so that register number 6 names the same value
(10_state.md rule R21, 60_exceptions.md rule R165). -/
def swapMode (s : State) : State :=
  { s with
    mode := match s.mode with
      | .supervisor => .user
      | .user => .supervisor
    ssp := s.usp
    usp := s.ssp }

/-- An outcome with its next state changed by a function. -/
def mapNext (f : State → State) : Outcome State → Outcome State
  | .next t => .next (f t)
  | .fault e => .fault e
  | .refused e => .refused e

/-! ### Words and assembly lines -/

/-- The word decodes to the instruction, and the assembly line, written for the address the instruction has, assembles to it. -/
structure HasForm (w : Word) (line : Word → Asm) (i : Instr) : Prop where
  word : decodeWord Config.sbzPolicy w = .ok i
  asm : ∀ pos : Word, assemble pos (line pos) = some i

end Sys2Proof.Machine
end

