-- ==== Sys2Proof/Certificates/Slice0/Obligations.lean ====
section
/-!
DEFINITION. The statements for the provers, in the order of OBLIGATIONS.json. `exec i s` is applied to a state whose pc is the
incremented PC (10_state.md rule R23). A docstring that names a log entry says that the clause is a choice the sources leave open, taken as that
entry says.
-/

open Sys2Proof Sys2Proof.Machine

/-! ### Encoding -/

/-- Decoding the encoding of a well-formed instruction gives it back, every operand at every value (30_encoding.md rules R61 to R68, R72). -/
def Obligations.DecodeOfEncodeIsTheInstruction : Prop :=
  ∀ i : Instr, i.wellFormed = true → decodeWord .strict (encode i) = .ok i

/-- A word that decodes is the encoding of a well-formed instruction, but for bit 5 of a left shift, which is not examined
(90_conflicts.md C3; log 19). -/
def Obligations.EncodeOfDecodeIsTheWord : Prop :=
  ∀ (w : Word) (i : Instr), decodeWord .strict w = .ok i →
    i.wellFormed = true ∧
      (encode i = w ∨ ∃ dr sr amount4, i = .lshf dr sr amount4 ∧ w = 0b1101#4 ++ dr.bits ++ sr.bits ++ 0b10#2 ++ amount4)

/-- The decoder answers the first matching row of spec/opcode_table.json, and rejects exactly the words no row matches
(30_encoding.md rules R71, R72; the rejection is the decision D6, log 12). -/
def Obligations.DecoderAnswersFirstMatchingTableRow : Prop :=
  ∀ w : Word, firstRow w = match decodeWord .strict w with
    | .ok i => some i.mnemonic
    | .error _ => none

/-- Under the policy `ignore` every word decodes, and the words that decode under `strict` decode to the same instruction
(30_encoding.md rule R71; log 12). -/
def Obligations.IgnorePolicyExtendsStrictDecoding : Prop :=
  ∀ w : Word, (∃ i, decodeWord .ignore w = .ok i) ∧ ∀ i, decodeWord .strict w = .ok i → decodeWord .ignore w = .ok i

/-- Some words written out in 95_test_vectors.md section 2, and the instructions they stand for. -/
def Obligations.WordsOfTheSpecDecode : Prop :=
  decodeWord .strict 0x14C4#16 = .ok (.addReg .r2 .r3 .r4) ∧
  decodeWord .strict 0x54E7#16 = .ok (.andImm .r2 .r3 0b00111#5) ∧
  decodeWord .strict 0x0605#16 = .ok (.br false true true 0b000000101#9) ∧
  decodeWord .strict 0xC1C0#16 = .ok .ret ∧
  decodeWord .strict 0x4810#16 = .ok (.jsr 0b00000010000#11) ∧
  decodeWord .strict 0x288A#16 = .ok (.ldb .r4 .r2 0b001010#6) ∧
  decodeWord .strict 0x98BF#16 = .ok (.notReg .r4 .r2) ∧
  decodeWord .strict 0xD4F7#16 = .ok (.rshfa .r2 .r3 0b0111#4) ∧
  decodeWord .strict 0x788A#16 = .ok (.stw .r4 .r2 0b001010#6) ∧
  decodeWord .strict 0xF023#16 = .ok (.trap 0x23#8)

/-! ### Operate instructions -/

/-- `setcc(v)` sets N, Z, P by the sign of v, exactly one of them, and changes nothing else (00_scope.md rule R11). -/
def Obligations.SetccSetsExactlyOneConditionCode : Prop :=
  ∀ (v : Word) (s : State),
    (setcc v s).ccN = v.getLsbD 15 ∧ ((setcc v s).ccZ = true ↔ v = 0#16) ∧
    ((setcc v s).ccP = true ↔ v.getLsbD 15 = false ∧ v ≠ 0#16) ∧ OneHotCC (setcc v s) ∧ CCFrom (setcc v s) v ∧
    SameRegsExcept s (setcc v s) [] ∧ (setcc v s).pc = s.pc ∧ SameMemory s (setcc v s) ∧ SameDevices s (setcc v s)

/-- ADD, register form (40_operate.md rule R80; the wrap modulo 2^16 is the decision D4, log 25). -/
def Obligations.AddRegisterWritesSumModulo65536 : Prop :=
  ∀ dr sr1 sr2 : Reg,
    HasForm (0b0001#4 ++ dr.bits ++ sr1.bits ++ 0b000#3 ++ sr2.bits) (fun _ => .add dr sr1 (.reg sr2)) (.addReg dr sr1 sr2) ∧
    ∀ s : State, ∃ t, exec (.addReg dr sr1 sr2) s = .next t ∧
      WritesResult s t dr (BitVec.ofNat 16 ((getReg s sr1).toNat + (getReg s sr2).toNat))

/-- ADD, immediate form (40_operate.md rule R81; the wrap modulo 2^16 is the decision D4, log 25). -/
def Obligations.AddImmediateWritesSumWithSignedImmediate : Prop :=
  ∀ (dr sr1 : Reg) (imm5 : BitVec 5),
    HasForm (0b0001#4 ++ dr.bits ++ sr1.bits ++ 0b1#1 ++ imm5) (fun _ => .add dr sr1 (.imm imm5.toInt)) (.addImm dr sr1 imm5) ∧
    ∀ s : State, ∃ t, exec (.addImm dr sr1 imm5) s = .next t ∧
      WritesResult s t dr (BitVec.ofInt 16 ((getReg s sr1).toInt + imm5.toInt))

/-- AND, both forms: each bit of the result is the conjunction of the operands' bits (40_operate.md rules R82, R83). -/
def Obligations.AndWritesBitwiseConjunction : Prop :=
  (∀ dr sr1 sr2 : Reg,
    HasForm (0b0101#4 ++ dr.bits ++ sr1.bits ++ 0b000#3 ++ sr2.bits) (fun _ => .and dr sr1 (.reg sr2)) (.andReg dr sr1 sr2) ∧
    ∀ s : State, ∃ t v, exec (.andReg dr sr1 sr2) s = .next t ∧ WritesResult s t dr v ∧
      ∀ k < 16, v.getLsbD k = ((getReg s sr1).getLsbD k && (getReg s sr2).getLsbD k)) ∧
  (∀ (dr sr1 : Reg) (imm5 : BitVec 5),
    HasForm (0b0101#4 ++ dr.bits ++ sr1.bits ++ 0b1#1 ++ imm5) (fun _ => .and dr sr1 (.imm imm5.toInt)) (.andImm dr sr1 imm5) ∧
    ∀ s : State, ∃ t v, exec (.andImm dr sr1 imm5) s = .next t ∧ WritesResult s t dr v ∧
      ∀ k < 16, v.getLsbD k = ((getReg s sr1).getLsbD k && imm5.getLsbD (min k 4)))

/-- XOR, both forms: each bit of the result is the exclusive or of the operands' bits (40_operate.md rules R88, R89). The word with
imm5 = 11111 is NOT's; the general meaning covers that value too. -/
def Obligations.XorWritesBitwiseExclusiveOr : Prop :=
  (∀ dr sr1 sr2 : Reg,
    HasForm (0b1001#4 ++ dr.bits ++ sr1.bits ++ 0b000#3 ++ sr2.bits) (fun _ => .xor dr sr1 (.reg sr2)) (.xorReg dr sr1 sr2) ∧
    ∀ s : State, ∃ t v, exec (.xorReg dr sr1 sr2) s = .next t ∧ WritesResult s t dr v ∧
      ∀ k < 16, v.getLsbD k = Bool.xor ((getReg s sr1).getLsbD k) ((getReg s sr2).getLsbD k)) ∧
  (∀ (dr sr1 : Reg) (imm5 : BitVec 5),
    (imm5 ≠ 0b11111#5 →
      HasForm (0b1001#4 ++ dr.bits ++ sr1.bits ++ 0b1#1 ++ imm5) (fun _ => .xor dr sr1 (.imm imm5.toInt)) (.xorImm dr sr1 imm5)) ∧
    ∀ s : State, ∃ t v, exec (.xorImm dr sr1 imm5) s = .next t ∧ WritesResult s t dr v ∧
      ∀ k < 16, v.getLsbD k = Bool.xor ((getReg s sr1).getLsbD k) (imm5.getLsbD (min k 4)))

/-- NOT complements every bit, and is what XOR does with imm5 = 11111 (40_operate.md rule R84). -/
def Obligations.NotComplementsEveryBitAndIsXorWithMinusOne : Prop :=
  ∀ dr sr : Reg,
    HasForm (0b1001#4 ++ dr.bits ++ sr.bits ++ 0b111111#6) (fun _ => .not dr sr) (.notReg dr sr) ∧
    HasForm (0b1001#4 ++ dr.bits ++ sr.bits ++ 0b111111#6) (fun _ => .xor dr sr (.imm (-1))) (.notReg dr sr) ∧
    ∀ s : State, exec (.notReg dr sr) s = exec (.xorImm dr sr 0b11111#5) s ∧
      ∃ t v, exec (.notReg dr sr) s = .next t ∧ WritesResult s t dr v ∧ ∀ k < 16, v.getLsbD k = !(getReg s sr).getLsbD k

/-- LSHF multiplies by a power of two modulo 2^16; bit 5 of its word is not examined
(40_operate.md rule R85; that bit 5 is not examined is 90_conflicts.md C3, log 19). -/
def Obligations.LeftShiftMultipliesByPowerOfTwo : Prop :=
  ∀ (dr sr : Reg) (amount4 : BitVec 4),
    HasForm (0b1101#4 ++ dr.bits ++ sr.bits ++ 0b00#2 ++ amount4) (fun _ => .lshf dr sr amount4.toNat) (.lshf dr sr amount4) ∧
    HasForm (0b1101#4 ++ dr.bits ++ sr.bits ++ 0b10#2 ++ amount4) (fun _ => .lshf dr sr amount4.toNat) (.lshf dr sr amount4) ∧
    ∀ s : State, ∃ t, exec (.lshf dr sr amount4) s = .next t ∧
      WritesResult s t dr (BitVec.ofNat 16 ((getReg s sr).toNat * 2 ^ amount4.toNat))

/-- RSHFL divides the unsigned value by a power of two, rounding down (40_operate.md rule R86). -/
def Obligations.LogicalRightShiftDividesUnsigned : Prop :=
  ∀ (dr sr : Reg) (amount4 : BitVec 4),
    HasForm (0b1101#4 ++ dr.bits ++ sr.bits ++ 0b01#2 ++ amount4) (fun _ => .rshfl dr sr amount4.toNat) (.rshfl dr sr amount4) ∧
    ∀ s : State, ∃ t, exec (.rshfl dr sr amount4) s = .next t ∧
      WritesResult s t dr (BitVec.ofNat 16 ((getReg s sr).toNat / 2 ^ amount4.toNat)) ∧
      (amount4 ≠ 0#4 → t.ccN = false)

/-- RSHFA divides the signed value by a power of two, rounding toward minus infinity (40_operate.md rule R87). -/
def Obligations.ArithmeticRightShiftDividesSigned : Prop :=
  ∀ (dr sr : Reg) (amount4 : BitVec 4),
    HasForm (0b1101#4 ++ dr.bits ++ sr.bits ++ 0b11#2 ++ amount4) (fun _ => .rshfa dr sr amount4.toNat) (.rshfa dr sr amount4) ∧
    ∀ s : State, ∃ t v, exec (.rshfa dr sr amount4) s = .next t ∧ WritesResult s t dr v ∧
      v = BitVec.ofInt 16 ((getReg s sr).toInt / 2 ^ amount4.toNat) ∧ v.getLsbD 15 = (getReg s sr).getLsbD 15

/-- An instruction the figures mark "+" leaves exactly one of N, Z, P set, and one that is neither marked "+" nor RTI leaves them as they
were (10_state.md rule R26). -/
def Obligations.ConditionCodesChangeOnlyByMarkedInstructions : Prop :=
  ∀ (i : Instr) (s t : State), exec i s = .next t →
    (i.setsCC = true → OneHotCC t) ∧ (i.setsCC = false → i ≠ .rti → SameCC s t)

/-! ### Data movement instructions -/

/-- The effective addresses of loads and stores: the base plus the signed offset, in bytes or in words, modulo 2^16
(41_data_movement.md rule R105; the wrap is the decision D4, log 25). -/
def Obligations.EffectiveAddressesAddSignedOffsets : Prop :=
  ∀ (base : Word) (offset6 : BitVec 6),
    byteAddress base offset6 = base + BitVec.ofInt 16 offset6.toInt ∧
    wordAddress base offset6 = base + BitVec.ofInt 16 (2 * offset6.toInt) ∧
    isOdd (wordAddress base offset6) = isOdd base

/-- LEA writes the incremented PC plus twice the signed offset and sets the condition codes (41_data_movement.md rule R102; the wrap modulo 2^16 is the
decision D4, log 25; that the line also assembles where the label wraps is log 20). -/
def Obligations.LeaWritesPcRelativeAddress : Prop :=
  ∀ (dr : Reg) (offset9 : BitVec 9),
    HasForm (0b1110#4 ++ dr.bits ++ offset9) (fun pos => .lea dr (pos + 2#16 + BitVec.ofInt 16 (2 * offset9.toInt))) (.lea dr offset9) ∧
    ∀ s : State, ∃ t, exec (.lea dr offset9) s = .next t ∧
      WritesResult s t dr (s.pc + BitVec.ofInt 16 (2 * offset9.toInt))

/-- LDB from ordinary memory writes the byte, sign-extended (41_data_movement.md rule R100, the memory case). -/
def Obligations.LdbWritesSignExtendedByteOfMemory : Prop :=
  ∀ (dr base : Reg) (boffset6 : BitVec 6),
    HasForm (0b0010#4 ++ dr.bits ++ base.bits ++ boffset6) (fun _ => .ldb dr base boffset6.toInt) (.ldb dr base boffset6) ∧
    ∀ s : State, inDeviceRegion (byteAddress (getReg s base) boffset6) = false →
      ∃ t, exec (.ldb dr base boffset6) s = .next t ∧
        WritesResult s t dr (BitVec.ofInt 16 (s.mem.get (byteAddress (getReg s base) boffset6).toNat).toInt)

/-- LDW from ordinary memory writes the little-endian word (41_data_movement.md rule R101, the memory case). -/
def Obligations.LdwWritesLittleEndianWordOfMemory : Prop :=
  ∀ (dr base : Reg) (offset6 : BitVec 6),
    HasForm (0b0110#4 ++ dr.bits ++ base.bits ++ offset6) (fun _ => .ldw dr base offset6.toInt) (.ldw dr base offset6) ∧
    ∀ s : State, isOdd (getReg s base) = false → inDeviceRegion (wordAddress (getReg s base) offset6) = false →
      ∃ t, exec (.ldw dr base offset6) s = .next t ∧
        WritesResult s t dr (wordAt s.mem (wordAddress (getReg s base) offset6))

/-- LDW from a device register writes its word; a load of KBDR also clears KBSR[15] (60_exceptions.md rules R180, R182, R184: the decisions D22,
D23, log 18). -/
def Obligations.LdwReadsDeviceRegisters : Prop :=
  ∀ (dr base : Reg) (offset6 : BitVec 6) (s : State), isOdd (getReg s base) = false →
    (wordAddress (getReg s base) offset6 = 0xFE00#16 → ∃ t, exec (.ldw dr base offset6) s = .next t ∧
      WritesResult s t dr (bit15Word s.kbReady + (if s.kbIE then 0x4000#16 else 0#16))) ∧
    (wordAddress (getReg s base) offset6 = 0xFE02#16 → ∃ t, exec (.ldw dr base offset6) s = .next t ∧
      WritesResult { s with kbReady := false } t dr (BitVec.ofNat 16 s.kbdr.toNat)) ∧
    (wordAddress (getReg s base) offset6 = 0xFE04#16 → ∃ t, exec (.ldw dr base offset6) s = .next t ∧
      WritesResult s t dr (bit15Word s.dsrReady)) ∧
    (wordAddress (getReg s base) offset6 = 0xFFFE#16 → ∃ t, exec (.ldw dr base offset6) s = .next t ∧
      WritesResult s t dr (bit15Word s.clock))

/-- STB to ordinary memory stores the low byte of SR and changes nothing else (41_data_movement.md rule R103, the memory case). -/
def Obligations.StbStoresLowByteOnly : Prop :=
  ∀ (sr base : Reg) (boffset6 : BitVec 6),
    HasForm (0b0011#4 ++ sr.bits ++ base.bits ++ boffset6) (fun _ => .stb sr base boffset6.toInt) (.stb sr base boffset6) ∧
    ∀ s : State, s.mem.wf = true → ∀ ea : Word, ea = byteAddress (getReg s base) boffset6 → inDeviceRegion ea = false →
      ∃ t, exec (.stb sr base boffset6) s = .next t ∧
        t.mem.get ea.toNat = BitVec.ofNat 8 (getReg s sr).toNat ∧ SameMemoryOutside s t [ea.toNat] ∧
        SameProcessor s t ∧ SameDevices s t

/-- STW to ordinary memory stores the word, low byte at the lower address, and changes nothing else (41_data_movement.md rule R104, the memory
case, 20_memory.md rule R41). -/
def Obligations.StwStoresLittleEndianWord : Prop :=
  ∀ (sr base : Reg) (offset6 : BitVec 6),
    HasForm (0b0111#4 ++ sr.bits ++ base.bits ++ offset6) (fun _ => .stw sr base offset6.toInt) (.stw sr base offset6) ∧
    ∀ s : State, s.mem.wf = true → isOdd (getReg s base) = false →
      ∀ ea : Word, ea = wordAddress (getReg s base) offset6 → inDeviceRegion ea = false →
      ∃ t, exec (.stw sr base offset6) s = .next t ∧
        t.mem.get ea.toNat = BitVec.ofNat 8 (getReg s sr).toNat ∧
        t.mem.get (ea.toNat + 1) = BitVec.ofNat 8 ((getReg s sr).toNat / 256) ∧
        SameMemoryOutside s t [ea.toNat, ea.toNat + 1] ∧ SameProcessor s t ∧ SameDevices s t

/-- STW to a device register: KBSR takes IE only, DDR outputs the low byte when the display is ready, MCR takes the clock enable; memory and the
processor stay (60_exceptions.md rules R180, R182, R184: the decisions D22, D23, log 18). -/
def Obligations.StwWritesDeviceRegisters : Prop :=
  ∀ (sr base : Reg) (offset6 : BitVec 6) (s : State), isOdd (getReg s base) = false →
    (wordAddress (getReg s base) offset6 = 0xFE00#16 → ∃ t, exec (.stw sr base offset6) s = .next t ∧
      SameProcessor s t ∧ SameMemory s t ∧ SameDevices { s with kbIE := (getReg s sr).getLsbD 14 } t) ∧
    (wordAddress (getReg s base) offset6 = 0xFE06#16 → s.dsrReady = true → ∃ t, exec (.stw sr base offset6) s = .next t ∧
      SameProcessor s t ∧ SameMemory s t ∧
      SameDevices { s with
        dsrReady := false
        ddr := BitVec.ofNat 8 (getReg s sr).toNat
        display := s.display ++ [BitVec.ofNat 8 (getReg s sr).toNat] } t) ∧
    (wordAddress (getReg s base) offset6 = 0xFFFE#16 → ∃ t, exec (.stw sr base offset6) s = .next t ∧
      SameProcessor s t ∧ SameMemory s t ∧ SameDevices { s with clock := (getReg s sr).getLsbD 15 } t)

/-- A byte access in the device region is refused (20_memory.md rule R44: the decision D12, log 15). -/
def Obligations.ByteAccessToDeviceRegionIsRefused : Prop :=
  ∀ (r base : Reg) (boffset6 : BitVec 6) (s : State), inDeviceRegion (byteAddress (getReg s base) boffset6) = true →
    exec (.ldb r base boffset6) s = .refused .unmappedIO ∧ exec (.stb r base boffset6) s = .refused .unmappedIO

/-- The word accesses in the device region to which the sources give no meaning are refused: an unassigned address, a load of DDR, a store to KBDR
or DSR, a store to DDR while the display is not ready (20_memory.md rule R44, 60_exceptions.md rules R180, R182: the decisions D12, D22, log 15, 18). -/
def Obligations.WordAccessRefusalsInDeviceRegion : Prop :=
  ∀ (r base : Reg) (offset6 : BitVec 6) (s : State) (ea : Word),
    isOdd (getReg s base) = false → ea = wordAddress (getReg s base) offset6 →
    (0xFE00 ≤ ea.toNat → ea ∉ [0xFE00#16, 0xFE02#16, 0xFE04#16, 0xFE06#16, 0xFFFE#16] →
      exec (.ldw r base offset6) s = .refused .unmappedIO ∧ exec (.stw r base offset6) s = .refused .unmappedIO) ∧
    (ea = 0xFE06#16 → exec (.ldw r base offset6) s = .refused .deviceMisuse) ∧
    (ea = 0xFE02#16 ∨ ea = 0xFE04#16 → exec (.stw r base offset6) s = .refused .deviceMisuse) ∧
    (ea = 0xFE06#16 → s.dsrReady = false → exec (.stw r base offset6) s = .refused .deviceMisuse)

/-- A load after a store to the same address sees the stored value, at both widths: the word back by LDW, its two bytes by LDB
(20_memory.md rules R41, R49). -/
def Obligations.LoadsSeeTheBytesOfAnEarlierWordStore : Prop :=
  ∀ (sr base : Reg) (offset6 : BitVec 6) (s t : State), s.mem.wf = true →
    inDeviceRegion (wordAddress (getReg s base) offset6) = false → exec (.stw sr base offset6) s = .next t →
    (∀ dr : Reg, ∃ u, exec (.ldw dr base offset6) t = .next u ∧ getReg u dr = getReg s sr) ∧
    (∀ (dr b : Reg) (boffset6 : BitVec 6), byteAddress (getReg t b) boffset6 = wordAddress (getReg s base) offset6 →
      ∃ u, exec (.ldb dr b boffset6) t = .next u ∧ getReg u dr = ((getReg s sr).setWidth 8).signExtend 16) ∧
    (∀ (dr b : Reg) (boffset6 : BitVec 6), byteAddress (getReg t b) boffset6 = wordAddress (getReg s base) offset6 + 1#16 →
      ∃ u, exec (.ldb dr b boffset6) t = .next u ∧ getReg u dr = (getReg s sr).sshiftRight 8)

/-! ### Control instructions -/

/-- BR branches to the incremented PC plus twice the signed offset if a tested condition code is set, else changes nothing; each branch mnemonic
assembles to the word with its bits (42_control.md rule R120; the wrap modulo 2^16 is the decision D4, log 25; a label that wraps is log 20). -/
def Obligations.BranchTakenExactlyWhenTestedCodeIsSet : Prop :=
  ∀ (n z p : Bool) (offset9 : BitVec 9),
    decodeWord .strict (0b0000#4 ++ BitVec.ofBool n ++ BitVec.ofBool z ++ BitVec.ofBool p ++ offset9) = .ok (.br n z p offset9) ∧
    (∀ (name : BranchName) (pos : Word), name.bits = (n, z, p) →
      assemble pos (.branch name (pos + 2#16 + BitVec.ofInt 16 (2 * offset9.toInt))) = some (.br n z p offset9)) ∧
    ∀ s : State,
      ((n = true ∧ s.ccN = true) ∨ (z = true ∧ s.ccZ = true) ∨ (p = true ∧ s.ccP = true) →
        ∃ t, exec (.br n z p offset9) s = .next t ∧ JumpsTo s t (s.pc + BitVec.ofInt 16 (2 * offset9.toInt))) ∧
      (¬((n = true ∧ s.ccN = true) ∨ (z = true ∧ s.ccZ = true) ∨ (p = true ∧ s.ccP = true)) →
        exec (.br n z p offset9) s = .next s)

/-- JMP goes to the register's content, all sixteen bits, if it is even; if it is odd, an illegal operand address exception occurs. BaseR = 7 is
RET's word, and the general meaning covers it too (42_control.md rule R122). -/
def Obligations.JmpGoesToEvenRegisterAndFaultsOnOdd : Prop :=
  ∀ base : Reg,
    (base ≠ .r7 → HasForm (0b1100#4 ++ 0b000#3 ++ base.bits ++ 0b000000#6) (fun _ => .jmp base) (.jmp base)) ∧
    ∀ s : State,
      (isOdd (getReg s base) = false → ∃ t, exec (.jmp base) s = .next t ∧ JumpsTo s t (getReg s base)) ∧
      (isOdd (getReg s base) = true → exec (.jmp base) s = .fault .illegalOperandAddress)

/-- RET is the word xC1C0 and is JMP with BaseR = 7: it goes to R7 if that is even, else an illegal operand address exception occurs
(42_control.md rule R126). -/
def Obligations.RetGoesToEvenR7AndFaultsOnOdd : Prop :=
  HasForm 0xC1C0#16 (fun _ => .ret) .ret ∧ HasForm 0xC1C0#16 (fun _ => .jmp .r7) .ret ∧
  ∀ s : State, exec .ret s = exec (.jmp .r7) s ∧
    (isOdd (getReg s .r7) = false → ∃ t, exec .ret s = .next t ∧ JumpsTo s t (getReg s .r7)) ∧
    (isOdd (getReg s .r7) = true → exec .ret s = .fault .illegalOperandAddress)

/-- JSR writes the incremented PC to R7 and goes to it plus twice the signed offset (42_control.md rule R124; the wrap modulo 2^16 is the decision D4,
log 25; that the line also assembles where the label wraps is log 20). -/
def Obligations.JsrLinksAndGoesToPcRelativeTarget : Prop :=
  ∀ offset11 : BitVec 11,
    HasForm (0b0100#4 ++ 0b1#1 ++ offset11) (fun pos => .jsr (pos + 2#16 + BitVec.ofInt 16 (2 * offset11.toInt))) (.jsr offset11) ∧
    ∀ s : State, ∃ t, exec (.jsr offset11) s = .next t ∧ CallsTo s t (s.pc + BitVec.ofInt 16 (2 * offset11.toInt))

/-- JSRR writes the incremented PC to R7 and goes to the base register's content, if even; if odd, an illegal operand address exception occurs and
nothing is written. `JSRR R7` goes to the incremented PC (42_control.md rule R125: the order for R7 is the decision D8, log 13). -/
def Obligations.JsrrLinksAndGoesToRegister : Prop :=
  ∀ base : Reg,
    HasForm (0b0100#4 ++ 0b0#1 ++ 0b00#2 ++ base.bits ++ 0b000000#6) (fun _ => .jsrr base) (.jsrr base) ∧
    ∀ s : State,
      (base ≠ .r7 → isOdd (getReg s base) = false → ∃ t, exec (.jsrr base) s = .next t ∧ CallsTo s t (getReg s base)) ∧
      (base ≠ .r7 → isOdd (getReg s base) = true → exec (.jsrr base) s = .fault .illegalOperandAddress) ∧
      (base = .r7 → isOdd s.pc = false → ∃ t, exec (.jsrr base) s = .next t ∧ CallsTo s t s.pc)

/-- The order in which JSRR reads its base register and writes R7 matters for R7 only (42_control.md rule R125; log 13). -/
def Obligations.JsrrOrderMattersForR7Only : Prop :=
  ∀ (s : State) (link : Word) (base : Reg),
    jsrrTarget .after s link base = (if base = .r7 then link else getReg s base) ∧ jsrrTarget .before s link base = getReg s base

/-- In a state with an even pc, the instructions that raise the illegal operand address exception are exactly LDW, STW and JMP with an odd base
register, RET with an odd R7, JSRR with an odd base register other than R7, and RTI in supervisor mode with an odd SSP
(60_exceptions.md rule R161; the RTI case is the decision D15, log 21; that `JSRR R7` never raises it is the decision D8, log 13). -/
def Obligations.IllegalOperandAddressExactlyOnOddRegister : Prop :=
  ∀ (i : Instr) (s : State), isOdd s.pc = false →
    (exec i s = .fault .illegalOperandAddress ↔
      (∃ r base offset6, (i = .ldw r base offset6 ∨ i = .stw r base offset6) ∧ isOdd (getReg s base) = true) ∨
      (∃ base, i = .jmp base ∧ isOdd (getReg s base) = true) ∨
      (i = .ret ∧ isOdd (getReg s .r7) = true) ∨
      (∃ base, i = .jsrr base ∧ base ≠ .r7 ∧ isOdd (getReg s base) = true) ∨
      (i = .rti ∧ s.mode = .supervisor ∧ isOdd s.ssp = true))

/-! ### System instructions -/

/-- TRAP writes the incremented PC to R7 and goes to the word of the trap vector table at twice the vector, if that is even; the mode and the
condition codes stay (43_system.md rule R142, the case of an even entry; that the mode stays is also the decision D24, log 26). -/
def Obligations.TrapLinksAndGoesThroughVectorTable : Prop :=
  ∀ v : BitVec 8,
    HasForm (0b1111#4 ++ 0b0000#4 ++ v) (fun _ => .trap v.toNat) (.trap v) ∧
    ∀ s : State, isOdd (wordAt s.mem (BitVec.ofNat 16 (2 * v.toNat))) = false →
      ∃ t, exec (.trap v) s = .next t ∧ CallsTo s t (wordAt s.mem (BitVec.ofNat 16 (2 * v.toNat)))

/-- TRAP with an odd vector-table entry stops as `unalignedPC` (the decision D9, log 22). -/
def Obligations.TrapThroughOddEntryStops : Prop :=
  ∀ (v : BitVec 8) (s : State), isOdd (wordAt s.mem (BitVec.ofNat 16 (2 * v.toNat))) = true →
    exec (.trap v) s = .fault .unalignedPC

/-- RTI in supervisor mode pops the PC, then the PSR, from an even SSP in ordinary memory: pc, the mode and N, Z, P are the popped ones, SSP moves up
by four, everything else stays (43_system.md rule R140, the case without a stop; PSR[14:3] are ignored by the decision D11, log 16). -/
def Obligations.RtiPopsPcThenPsr : Prop :=
  HasForm 0x8000#16 (fun _ => .rti) .rti ∧
  ∀ s : State, s.mode = .supervisor → isOdd s.ssp = false → inDeviceRegion s.ssp = false → inDeviceRegion (s.ssp + 2#16) = false →
    isOdd (wordAt s.mem s.ssp) = false →
    ∃ t, exec .rti s = .next t ∧
      t.pc = wordAt s.mem s.ssp ∧ t.ssp = s.ssp + 4#16 ∧ t.usp = s.usp ∧
      (t.mode = .user ↔ (wordAt s.mem (s.ssp + 2#16)).getLsbD 15 = true) ∧
      t.ccN = (wordAt s.mem (s.ssp + 2#16)).getLsbD 2 ∧
      t.ccZ = (wordAt s.mem (s.ssp + 2#16)).getLsbD 1 ∧
      t.ccP = (wordAt s.mem (s.ssp + 2#16)).getLsbD 0 ∧
      (∀ r : Reg, r ≠ .r6 → getReg t r = getReg s r) ∧ SameMemory s t ∧ SameDevices s t

/-- The privilege mode violation is raised exactly by RTI in user mode, and it is the first thing RTI checks, whatever the stack pointers and
memory hold (60_exceptions.md rule R162). -/
def Obligations.PrivilegeViolationExactlyForRtiInUserMode : Prop :=
  ∀ (i : Instr) (s : State), exec i s = .fault .privilegeModeViolation ↔ i = .rti ∧ s.mode = .user

/-- Where RTI in supervisor mode stops: at an odd SSP, at a stack word in the device region, at an odd popped PC, in this order
(the decisions D15, D12, D9; 60_exceptions.md rule R163 gives the order; log 15, 21, 22). -/
def Obligations.RtiStopsInOrder : Prop :=
  ∀ s : State, s.mode = .supervisor →
    (isOdd s.ssp = true → exec .rti s = .fault .illegalOperandAddress) ∧
    (isOdd s.ssp = false → (inDeviceRegion s.ssp = true ∨ inDeviceRegion (s.ssp + 2#16) = true) →
      exec .rti s = .refused .unmappedIO) ∧
    (isOdd s.ssp = false → inDeviceRegion s.ssp = false → inDeviceRegion (s.ssp + 2#16) = false →
      isOdd (wordAt s.mem s.ssp) = true → exec .rti s = .fault .unalignedPC)

/-- The words of the opcodes 1010 and 1011 stop as `illegalOpcode` (43_system.md rule R144: the decision D7, log 23). -/
def Obligations.ReservedOpcodesStop : Prop :=
  ∀ (low : BitVec 12) (s : State),
    decodeWord .strict (0b1010#4 ++ low) = .ok (.reserved1010 low) ∧
    decodeWord .strict (0b1011#4 ++ low) = .ok (.reserved1011 low) ∧
    exec (.reserved1010 low) s = .fault (.illegalOpcode (0b1010#4 ++ low)) ∧
    exec (.reserved1011 low) s = .fault (.illegalOpcode (0b1011#4 ++ low))

/-! ### The step, the interrupt, the devices -/

/-- A step runs the decoded instruction: where the processor runs, no interrupt is initiated and the word at an even pc of ordinary memory decodes
to i, the step is exec of i on the state with the incremented PC (10_state.md rule R23). -/
def Obligations.StepRunsTheDecodedInstruction : Prop :=
  ∀ (s b : State) (i : Instr), FetchesAt s b → isOdd b.pc = false → inDeviceRegion b.pc = false →
    decodeWord .strict (wordAt b.mem b.pc) = .ok i →
    step s = exec i { b with pc := b.pc + 2#16 }

/-- Where the fetch stops: in the device region, at a word with a 1 in a constant-zero field, and at an odd pc (20_memory.md rule R42, 30_encoding.md
rule R71: the decisions D19, D6; the odd pc is the model's choice, log 10, 12, 15). -/
def Obligations.FetchStops : Prop :=
  ∀ s b : State, FetchesAt s b →
    (inDeviceRegion b.pc = true → step s = .refused .unmappedIO) ∧
    (inDeviceRegion b.pc = false → isOdd b.pc = true → step s = .fault .unalignedPC) ∧
    (inDeviceRegion b.pc = false → isOdd b.pc = false → ∀ e, decodeWord .strict (wordAt b.mem b.pc) = .error e →
      step s = .fault (.reservedEncoding (wordAt b.mem b.pc)))

/-- A stopped processor stays as it is (10_state.md rule R32; log 8). -/
def Obligations.StoppedProcessorChangesNothing : Prop :=
  ∀ s : State, s.clock = false → step s = .next s

/-- At a boundary in user mode with KBSR[15] and KBSR[14] set, an even SSP with room in ordinary memory and an even entry at x0280, the step pushes the PSR
and then the pc on the supervisor stack, enters supervisor mode and goes to the entry; N, Z, P, the registers, USP and the devices stay
(60_exceptions.md rules R171, R172: the decisions D10, D20, D21, log 14, 17). -/
def Obligations.InterruptInitiationPushesPsrAndPc : Prop :=
  ∀ s b : State, s.clock = true → atBoundary s = b → b.mode = .user → b.kbReady = true → b.kbIE = true → b.mem.wf = true →
    isOdd b.ssp = false → inDeviceRegion (b.ssp - 2#16) = false → inDeviceRegion (b.ssp - 4#16) = false →
    isOdd (wordAt b.mem 0x0280#16) = false →
    ∃ t, step s = .next t ∧
      t.pc = wordAt b.mem 0x0280#16 ∧ t.mode = .supervisor ∧ t.ssp = b.ssp - 4#16 ∧ t.usp = b.usp ∧
      wordAt t.mem (b.ssp - 2#16) =
        BitVec.ofNat 16 (0x8000 + 4 * b.ccN.toNat + 2 * b.ccZ.toNat + b.ccP.toNat) ∧
      wordAt t.mem (b.ssp - 4#16) = b.pc ∧
      SameMemoryOutside b t [(b.ssp - 4#16).toNat, (b.ssp - 4#16).toNat + 1, (b.ssp - 2#16).toNat, (b.ssp - 2#16).toNat + 1] ∧
      (∀ r : Reg, r ≠ .r6 → getReg t r = getReg b r) ∧ SameCC b t ∧ SameDevices b t

/-- Where the initiation of an interrupt stops, in the order of the pseudocode of 60_exceptions.md rule R172: at an odd SSP, at an odd vector-table
entry, at a stack word in the device region (the decisions D15, D9, D12, log 11, 15, 21, 22). -/
def Obligations.InterruptInitiationStopsInOrder : Prop :=
  ∀ s b : State, s.clock = true → atBoundary s = b → b.mode = .user → b.kbReady = true → b.kbIE = true →
    (isOdd b.ssp = true → step s = .fault .illegalOperandAddress) ∧
    (isOdd b.ssp = false → isOdd (wordAt b.mem 0x0280#16) = true → step s = .fault .unalignedPC) ∧
    (isOdd b.ssp = false → isOdd (wordAt b.mem 0x0280#16) = false →
      (inDeviceRegion (b.ssp - 2#16) = true ∨ inDeviceRegion (b.ssp - 4#16) = true) → step s = .refused .unmappedIO)

/-- No interrupt is initiated in supervisor mode, without a received character, or without IE (60_exceptions.md rules R170, R171: the decisions D10, D20,
log 14, 17). -/
def Obligations.InterruptConditionIsReadyAndEnabledInUserMode : Prop :=
  ∀ s : State, interruptTaken Config.supervisorInterruptible s = true ↔
    s.mode = .user ∧ s.kbReady = true ∧ s.kbIE = true

/-- A service routine that leaves the two words of its frame and SSP as initiation left them returns by RTI to exactly the interrupted process: its
pc, mode, condition codes and SSP; everything else is as the routine left it (60_exceptions.md rule R173). -/
def Obligations.RtiReturnsToTheInterruptedProcess : Prop :=
  ∀ s t r : State, s.mem.wf = true → isOdd s.pc = false → initiateInterrupt keyboardVector s = .next t →
    r.mode = .supervisor → r.ssp = t.ssp → (∀ k < 4, r.mem.get (t.ssp.toNat + k) = t.mem.get (t.ssp.toNat + k)) →
    ∃ u, exec .rti r = .next u ∧
      u.pc = s.pc ∧ u.mode = s.mode ∧ SameCC s u ∧ u.ssp = s.ssp ∧ u.usp = r.usp ∧
      (∀ q : Reg, q ≠ .r6 → getReg u q = getReg r q) ∧ u.mem = r.mem ∧ SameDevices r u

/-- A key strike sets KBDR and KBSR[15] and nothing else, whether or not a character was waiting; `DisplayReady` sets DSR[15] and nothing else; a boundary
takes the first list of events off the schedule and applies each of them, in order, and changes nothing where none is left; the processor, memory, IE,
the clock, DDR and the display output stay (60_exceptions.md rules R181, R183: the decisions D13, D26; the schedule is log 6). -/
def Obligations.DeviceEventsChangeOnlyTheirRegisters : Prop :=
  (∀ (s : State) (c : Byte), applyEvent s (.keyStrike c) = { s with kbdr := c, kbReady := true }) ∧
  (∀ s : State, applyEvent s .displayReady = { s with dsrReady := true }) ∧
  (∀ (s : State) (now : List DeviceEvent) (later : List (List DeviceEvent)), s.schedule = now :: later →
    atBoundary s = now.foldl applyEvent { s with schedule := later }) ∧
  (∀ s : State, s.schedule = [] → atBoundary s = s) ∧
  (∀ s : State, SameProcessor s (atBoundary s) ∧ SameMemory s (atBoundary s) ∧ (atBoundary s).kbIE = s.kbIE ∧
    (atBoundary s).clock = s.clock ∧ (atBoundary s).display = s.display ∧ (atBoundary s).ddr = s.ddr ∧
    (atBoundary s).schedule = s.schedule.tail)

/-- A stored word is what the next fetch runs: after STW to the location that pc has moved to, the next quiet step runs the stored word
(20_memory.md rule R52: the decision D17, log 24). -/
def Obligations.NextFetchSeesTheStoredWord : Prop :=
  ∀ (s : State) (sr base : Reg) (offset6 : BitVec 6) (i : Instr), s.mem.wf = true → s.clock = true → s.schedule = [] →
    interruptTaken Config.supervisorInterruptible s = false → isOdd s.pc = false → inDeviceRegion s.pc = false →
    wordAddress (getReg s base) offset6 = s.pc → decodeWord .strict (getReg s sr) = .ok i →
    ∃ t, exec (.stw sr base offset6) s = .next t ∧ step t = exec i { t with pc := t.pc + 2#16 }

/-- A word placed by `withFetchWord` at an even pc of ordinary memory is what the very next step runs, in every state (log 7). -/
def Obligations.PlacedWordIsRunByTheNextStep : Prop :=
  ∀ (s : State) (w : Nat) (i : Instr), s.mem.wf = true → isOdd s.pc = false → inDeviceRegion s.pc = false →
    decodeTableWord 16 w = some i →
    ∃ b, atBoundary (s.withFetchWord 16 w) = b ∧ step (s.withFetchWord 16 w) = exec i { b with pc := s.pc + 2#16 }

/-! ### Invariants and whole-machine rules -/

/-- Every step keeps memory canonical and within x0000..xFDFF and pc even, from any state that has these (10_state.md rules R25, R29; that an
odd word never reaches pc rests on the decisions D5 and D9, and the canonical list is the model's own form of memory, log 4, 9, 22). -/
def Obligations.StepKeepsMemoryCanonicalAndPcEven : Prop :=
  ∀ s t : State, s.Inv → step s = .next t → t.Inv

/-- The state after reset, and every launch with admissible parameters, has the invariant (70_reset_and_hazards.md rules R200, R201). -/
def Obligations.LaunchHasTheInvariant : Prop :=
  State.reset.Inv ∧ ∀ l : Launch, l.Valid → (State.launch l).Inv

/-- What the spec's table gives for the start of a run: a launch has each of its parameters (RESET_PC, RESET_PRIV, every register and condition code
of RESET_REGS, INITIAL_MEMORY, the display's DSR[15], the schedule), KBSR = x0000, KBDR = x0000, MCR = x8000 and PSR[14:3] = 0; reset is in supervisor
mode (10_state.md rule R34: the decisions D1, D2, D3, D13; the schedule is log 6; DDR = x00 and the empty display output are log 5; the other values
of `State.reset` are log 1 to 6). -/
def Obligations.LaunchTakesTheTableOfResetValues : Prop :=
  State.reset.mode = .supervisor ∧
  ∀ l : Launch, (State.launch l).pc = l.pc ∧ (State.launch l).mode = l.priv ∧ (State.launch l).mem = l.memory ∧
    (State.launch l).r0 = l.r0 ∧ (State.launch l).r1 = l.r1 ∧ (State.launch l).r2 = l.r2 ∧ (State.launch l).r3 = l.r3 ∧
    (State.launch l).r4 = l.r4 ∧ (State.launch l).r5 = l.r5 ∧ (State.launch l).r7 = l.r7 ∧
    (State.launch l).ssp = l.ssp ∧ (State.launch l).usp = l.usp ∧
    (State.launch l).ccN = l.n ∧ (State.launch l).ccZ = l.z ∧ (State.launch l).ccP = l.p ∧
    (State.launch l).schedule = l.schedule ∧ (State.launch l).ddr = 0x00#8 ∧ (State.launch l).display = [] ∧
    (State.launch l).kbsrWord = 0#16 ∧ (State.launch l).kbdrWord = 0#16 ∧ (State.launch l).mcrWord = 0x8000#16 ∧
    (State.launch l).dsrWord = bit15Word l.displayReady ∧ (State.launch l).psr &&& 0x7FF8#16 = 0#16

/-- The undefined bits of the PSR and of the device registers read as zero in every state (10_state.md rule R28, 60_exceptions.md rule R184: the decisions
D11, D22, D23, log 16, 18). -/
def Obligations.UndefinedBitsReadAsZero : Prop :=
  ∀ s : State, s.psr &&& 0x7FF8#16 = 0#16 ∧ s.kbsrWord &&& 0x3FFF#16 = 0#16 ∧ s.kbdrWord &&& 0xFF00#16 = 0#16 ∧
    s.dsrWord &&& 0x7FFF#16 = 0#16 ∧ s.mcrWord &&& 0x7FFF#16 = 0#16

/-- A canonical memory is determined by what its bytes read as; a write keeps the form, is read back, and leaves every other byte
(20_memory.md rules R40, R43; the canonical list is the model's own form of memory, log 4). -/
def Obligations.MemoryReadsDetermineCanonicalMemory : Prop :=
  (∀ m n : Memory, m.wf = true → n.wf = true → (∀ a, m.get a = n.get a) → m = n) ∧
  (∀ (m : Memory) (k : Nat) (v : Byte), m.wf = true →
    (m.set k v).wf = true ∧ (m.set k v).get k = v ∧ ∀ a, a ≠ k → (m.set k v).get a = m.get a)

/-- User mode is left only by interrupt initiation, and supervisor mode only by RTI popping a PSR word with bit 15 set
(60_exceptions.md rule R165). -/
def Obligations.ModeChangesOnlyByInterruptAndRti : Prop :=
  ∀ s t : State, step s = .next t →
    (s.mode = .user → t.mode = .supervisor →
      interruptTaken Config.supervisorInterruptible (atBoundary s) = true ∧
        initiateInterrupt keyboardVector (atBoundary s) = .next t) ∧
    (s.mode = .supervisor → t.mode = .user →
      decodeWord .strict (wordAt s.mem s.pc) = .ok .rti ∧ (wordAt s.mem (s.ssp + 2#16)).getLsbD 15 = true)

/-- The stack pointer that register number 6 does not name keeps its value: no instruction in supervisor mode changes USP, and none in user mode changes
SSP (10_state.md rule R21). -/
def Obligations.UnselectedStackPointerIsKept : Prop :=
  ∀ (i : Instr) (s t : State), exec i s = .next t →
    (s.mode = .supervisor → t.usp = s.usp) ∧ (s.mode = .user → t.ssp = s.ssp)

/-- Every instruction but RTI does the same in both modes, with the stack pointers exchanged: its next state, fault or refusal
(60_exceptions.md rule R165, 20_memory.md rule R48). -/
def Obligations.InstructionsBehaveAlikeInBothModes : Prop :=
  ∀ (i : Instr) (s : State), i ≠ .rti → exec i (swapMode s) = mapNext swapMode (exec i s)

/-- No instruction but STB and STW changes memory, and in a step without an interrupt neither does the fetch or a device event
(20_memory.md rule R47, 10_state.md rule R35). -/
def Obligations.OnlyStoresChangeMemory : Prop :=
  (∀ (i : Instr) (s t : State), exec i s = .next t →
    (∀ sr base boffset6, i ≠ .stb sr base boffset6) → (∀ sr base offset6, i ≠ .stw sr base offset6) → t.mem = s.mem) ∧
  (∀ (i : Instr) (s b t : State), FetchesAt s b → decodeWord .strict (wordAt b.mem b.pc) = .ok i →
    (∀ sr base boffset6, i ≠ .stb sr base boffset6) → (∀ sr base offset6, i ≠ .stw sr base offset6) →
    step s = .next t → t.mem = s.mem)

/-- Only a STW of a word with bit 15 clear to xFFFE stops a running processor (70_reset_and_hazards.md rule R206, 60_exceptions.md rule R184). -/
def Obligations.OnlyAStoreToMcrStopsTheProcessor : Prop :=
  ∀ s t : State, s.clock = true → step s = .next t → t.clock = false →
    ∃ sr base offset6, decodeWord .strict (wordAt s.mem s.pc) = .ok (.stw sr base offset6) ∧
      wordAddress (getReg s base) offset6 = 0xFFFE#16 ∧ (getReg s sr).getLsbD 15 = false

/-- The display output only grows, by at most one character in a step, and only when the display was ready (60_exceptions.md rule R182: the decision
D22, log 18). -/
def Obligations.DisplayOutputOnlyGrows : Prop :=
  ∀ s t : State, step s = .next t →
    t.display = s.display ∨
      ∃ c, t.display = s.display ++ [c] ∧ (atBoundary s).dsrReady = true ∧ t.dsrReady = false ∧ t.ddr = c
end

