-- ==== Sys2Proof/Laws/Encoding.lean ====
section
/-!
SUPPORT. Register numbers and field extraction for the decoder and the encoder.
-/

namespace Sys2Proof

@[simp] theorem Reg.ofBits_bits (r : Reg) : Reg.ofBits r.bits = r := by cases r <;> rfl

@[simp] theorem Reg.bits_ofBits (b : BitVec 3) : (Reg.ofBits b).bits = b := by
  revert b; decide

theorem Reg.bits_injective {r q : Reg} (h : r.bits = q.bits) : r = q := by
  rw [← Reg.ofBits_bits r, h, Reg.ofBits_bits]

@[simp] theorem accept_strict_true (i : Instr) : accept .strict true i = .ok i := rfl
@[simp] theorem accept_strict_false (i : Instr) : accept .strict false i = .error .reservedEncoding := rfl
@[simp] theorem accept_ignore (b : Bool) (i : Instr) : accept .ignore b i = .ok i := rfl

theorem accept_strict_eq_ok {b : Bool} {i j : Instr} : accept .strict b i = .ok j ↔ b = true ∧ i = j := by
  cases b <;> simp

/-- A field as a number. -/
theorem field_toNat (w : Word) (lo n : Nat) : (field w lo n).toNat = w.toNat / 2 ^ lo % 2 ^ n := by
  simp [field, Nat.shiftRight_eq_div_pow]

/-- Two strings side by side, as numbers. -/
theorem toNat_append_add {n m : Nat} (x : BitVec n) (y : BitVec m) : (x ++ y).toNat = x.toNat * 2 ^ m + y.toNat := by
  rw [BitVec.toNat_append, ← Nat.shiftLeft_add_eq_or_of_lt y.isLt, Nat.shiftLeft_eq]

/-- A field of a word is a value if their numbers agree. -/
theorem field_eq_of_toNat {w : Word} {lo n : Nat} {v : BitVec n} (h : w.toNat / 2 ^ lo % 2 ^ n = v.toNat) :
    field w lo n = v :=
  BitVec.eq_of_toNat_eq (by rw [field_toNat, h])

theorem toNat_formatR3 (op : BitVec 4) (dr sr1 sr2 : Reg) :
    (formatR3 op dr sr1 sr2).toNat =
      (((op.toNat * 2 ^ 3 + dr.bits.toNat) * 2 ^ 3 + sr1.bits.toNat) * 2 ^ 3 + 0) * 2 ^ 3 + sr2.bits.toNat := by
  unfold formatR3
  erw [toNat_append_add, toNat_append_add, toNat_append_add, toNat_append_add]
  rfl

theorem toNat_formatRI (op : BitVec 4) (dr sr1 : Reg) (imm5 : BitVec 5) :
    (formatRI op dr sr1 imm5).toNat =
      (((op.toNat * 2 ^ 3 + dr.bits.toNat) * 2 ^ 3 + sr1.bits.toNat) * 2 ^ 1 + 1) * 2 ^ 5 + imm5.toNat := by
  unfold formatRI
  erw [toNat_append_add, toNat_append_add, toNat_append_add, toNat_append_add]
  rfl

theorem toNat_formatM (op : BitVec 4) (r base : Reg) (offset6 : BitVec 6) :
    (formatM op r base offset6).toNat =
      ((op.toNat * 2 ^ 3 + r.bits.toNat) * 2 ^ 3 + base.bits.toNat) * 2 ^ 6 + offset6.toNat := by
  unfold formatM
  erw [toNat_append_add, toNat_append_add, toNat_append_add]

theorem toNat_formatSH (ad : BitVec 2) (dr sr : Reg) (amount4 : BitVec 4) :
    (formatSH ad dr sr amount4).toNat =
      (((13 * 2 ^ 3 + dr.bits.toNat) * 2 ^ 3 + sr.bits.toNat) * 2 ^ 2 + ad.toNat) * 2 ^ 4 + amount4.toNat := by
  unfold formatSH
  erw [toNat_append_add, toNat_append_add, toNat_append_add, toNat_append_add]
  rfl

theorem toNat_encode_br (n z p : Bool) (off : BitVec 9) :
    (encode (.br n z p off)).toNat = ((n.toNat * 2 + z.toNat) * 2 + p.toNat) * 2 ^ 9 + off.toNat := by
  unfold encode
  erw [toNat_append_add, toNat_append_add, toNat_append_add, toNat_append_add]
  cases n <;> cases z <;> cases p <;> rfl

theorem toNat_encode_jmp (base : Reg) : (encode (.jmp base)).toNat = 0xC000 + base.bits.toNat * 2 ^ 6 := by
  cases base <;> rfl

theorem toNat_encode_jsrr (base : Reg) : (encode (.jsrr base)).toNat = 0x4000 + base.bits.toNat * 2 ^ 6 := by
  cases base <;> rfl

theorem toNat_encode_jsr (off : BitVec 11) : (encode (.jsr off)).toNat = 9 * 2 ^ 11 + off.toNat := by
  unfold encode
  erw [toNat_append_add]
  rfl

theorem toNat_encode_lea (dr : Reg) (off : BitVec 9) :
    (encode (.lea dr off)).toNat = (14 * 2 ^ 3 + dr.bits.toNat) * 2 ^ 9 + off.toNat := by
  unfold encode
  erw [toNat_append_add, toNat_append_add]
  rfl

theorem toNat_encode_trap (v : BitVec 8) : (encode (.trap v)).toNat = 0xF0 * 2 ^ 8 + v.toNat := by
  unfold encode
  erw [toNat_append_add]
  rfl

theorem toNat_encode_reserved1010 (low : BitVec 12) : (encode (.reserved1010 low)).toNat = 10 * 2 ^ 12 + low.toNat := by
  unfold encode
  erw [toNat_append_add]
  rfl

theorem toNat_encode_reserved1011 (low : BitVec 12) : (encode (.reserved1011 low)).toNat = 11 * 2 ^ 12 + low.toNat := by
  unfold encode
  erw [toNat_append_add]
  rfl

/-- The word made of its bytes: the low byte at the lower address (20_memory.md rule R41). -/
theorem wordOfBytes_bytes (w : Word) : wordOfBytes (w.extractLsb' 0 8) (w.extractLsb' 8 8) = w := by
  unfold wordOfBytes
  apply BitVec.eq_of_getLsbD_eq
  intro i hi
  rw [BitVec.getLsbD_append]
  by_cases h : i < 8
  · simp [h]
  · simp only [h, decide_false, if_false, BitVec.getLsbD_extractLsb']
    rw [show 8 + (i - 8) = i by omega]
    simp; omega

/-- Decoding a list of bytes reads its first two bytes only. -/
theorem decodeBytes_cons (p : SbzPolicy) (lo hi : Byte) (rest : List Byte) (i : Instr)
    (h : decodeWord p (wordOfBytes lo hi) = .ok i) : decodeBytes p (lo :: hi :: rest) = .ok (i, rest) := by
  simp [decodeBytes, h]

end Sys2Proof
end

