-- ==== Sys2Proof/Laws/Memory.lean ====
section
/-!
SUPPORT. The laws of the memory list: reading after a write, the canonical form every operation keeps, and equality of canonical memories
that read alike.
-/

namespace Sys2Proof.Machine

@[simp] theorem Memory.get_nil (k : Nat) : Memory.get [] k = Memory.unlisted := rfl

theorem Memory.get_cons_entry (a : Nat) (b : Byte) (m : Memory) (k : Nat) :
    Memory.get ((a, b) :: m) k = if a = k then b else Memory.get m k := rfl

/-- Below the lower bound of a canonical list nothing is listed. -/
theorem Memory.get_of_wfFrom_lt {m : Memory} {lo k : Nat} (h : Memory.wfFrom lo m = true) (hk : k < lo) :
    Memory.get m k = Memory.unlisted := by
  induction m generalizing lo with
  | nil => rfl
  | cons c m ih =>
    obtain ⟨a, b⟩ := c
    simp only [Memory.wfFrom, Bool.and_eq_true, decide_eq_true_eq] at h
    rw [Memory.get_cons_entry, if_neg (by omega)]
    exact ih h.2 (by omega)

theorem Memory.wfFrom_mono {m : Memory} {lo lo' : Nat} (h : Memory.wfFrom lo m = true) (hl : lo' ≤ lo) :
    Memory.wfFrom lo' m = true := by
  cases m with
  | nil => rfl
  | cons c m =>
    obtain ⟨a, b⟩ := c
    simp only [Memory.wfFrom, Bool.and_eq_true, decide_eq_true_eq] at h ⊢
    exact ⟨⟨by omega, h.1.2⟩, h.2⟩

/-- What the head listing of a byte reads as, on a list with nothing at that address. -/
theorem Memory.get_cons (k : Nat) (v : Byte) (m : Memory) (a : Nat) (hm : Memory.get m k = Memory.unlisted) :
    Memory.get (Memory.cons k v m) a = if a = k then v else Memory.get m a := by
  unfold Memory.cons
  split
  · next h => split
              · next he => rw [he, hm, h]
              · rfl
  · rw [Memory.get_cons_entry]
    by_cases h : k = a
    · simp [h]
    · rw [if_neg h, if_neg (fun e => h e.symm)]

/-- Listing an address at the head hides what the list says of it. -/
theorem Memory.wfFrom_cons {k lo : Nat} {v : Byte} {m : Memory} (hlo : lo ≤ k) (hm : Memory.wfFrom (k + 1) m = true) :
    Memory.wfFrom lo (Memory.cons k v m) = true := by
  unfold Memory.cons
  split
  · exact Memory.wfFrom_mono hm (by omega)
  · next h => simp [Memory.wfFrom, hlo, hm, h]

/-- One write to a canonical list: every address reads as before, the written one reads the new byte. -/
theorem Memory.get_set_of_wfFrom {m : Memory} {lo : Nat} (h : Memory.wfFrom lo m = true) (k : Nat) (v : Byte) (a : Nat) :
    Memory.get (Memory.set m k v) a = if a = k then v else Memory.get m a := by
  induction m generalizing lo with
  | nil => exact Memory.get_cons k v [] a rfl
  | cons c m ih =>
    obtain ⟨a0, b0⟩ := c
    have h' := h
    simp only [Memory.wfFrom, Bool.and_eq_true, decide_eq_true_eq] at h
    unfold Memory.set
    split
    · next hlt =>
      refine Memory.get_cons k v _ a ?_
      rw [Memory.get_cons_entry, if_neg (by omega)]
      exact Memory.get_of_wfFrom_lt h.2 (by omega)
    · split
      · next hk =>
        rw [Memory.get_cons k v m a (Memory.get_of_wfFrom_lt h.2 (by omega)), Memory.get_cons_entry]
        by_cases ha : a = k
        · simp [ha]
        · rw [if_neg ha, if_neg ha, if_neg (by omega)]
      · next hk =>
        rw [Memory.get_cons_entry, Memory.get_cons_entry, ih h.2]
        by_cases ha : a0 = a
        · rw [if_pos ha, if_pos ha, if_neg (by omega)]
        · rw [if_neg ha, if_neg ha]

theorem Memory.set_wfFrom {m : Memory} {lo : Nat} (h : Memory.wfFrom lo m = true) {k : Nat} (hk : lo ≤ k) (v : Byte) :
    Memory.wfFrom lo (Memory.set m k v) = true := by
  induction m generalizing lo with
  | nil => exact Memory.wfFrom_cons hk rfl
  | cons c m ih =>
    obtain ⟨a0, b0⟩ := c
    simp only [Memory.wfFrom, Bool.and_eq_true, decide_eq_true_eq] at h
    unfold Memory.set
    split
    · next hlt =>
      refine Memory.wfFrom_cons hk ?_
      simp only [Memory.wfFrom, Bool.and_eq_true, decide_eq_true_eq]
      exact ⟨⟨by omega, h.1.2⟩, h.2⟩
    · split
      · next he => exact Memory.wfFrom_cons hk (by rw [he]; exact h.2)
      · next hne =>
        simp only [Memory.wfFrom, Bool.and_eq_true, decide_eq_true_eq]
        exact ⟨⟨h.1.1, h.1.2⟩, ih h.2 (by omega)⟩

/-- A write keeps the canonical form. -/
theorem Memory.set_wf {m : Memory} (h : m.wf = true) (k : Nat) (v : Byte) : (m.set k v).wf = true :=
  Memory.set_wfFrom h (Nat.zero_le k) v

/-- Reading after a write (20_memory.md rule R43). -/
theorem Memory.get_set {m : Memory} (h : m.wf = true) (k : Nat) (v : Byte) (a : Nat) :
    (m.set k v).get a = if a = k then v else m.get a :=
  Memory.get_set_of_wfFrom h k v a

/-- A write outside ordinary memory is the only thing that could list an address there. -/
theorem Memory.set_ordinary {m : Memory} (h : m.ordinary = true) {k : Nat} (hk : k < 0xFE00) (v : Byte) :
    (m.set k v).ordinary = true := by
  simp only [Memory.ordinary, List.all_eq_true, decide_eq_true_eq] at h ⊢
  induction m with
  | nil =>
    intro c hc
    simp only [Memory.set, Memory.cons] at hc
    split at hc <;> simp_all
  | cons c0 m ih =>
    obtain ⟨a0, b0⟩ := c0
    intro c hc
    unfold Memory.set Memory.cons at hc
    have hm : ∀ x ∈ m, x.1 < 0xFE00 := fun x hx => h x (List.mem_cons_of_mem _ hx)
    have h0 : a0 < 0xFE00 := h (a0, b0) List.mem_cons_self
    have := ih hm c
    split at hc <;> (try split at hc) <;> (try split at hc) <;> (try simp only [List.mem_cons] at hc) <;> grind

/-- A word write keeps the canonical form. -/
theorem Memory.setWord_wf {m : Memory} (h : m.wf = true) (a v : Word) : (m.setWord a v).wf = true :=
  Memory.set_wf (Memory.set_wf h _ _) _ _

/-- A word write at an even address of ordinary memory lists ordinary locations only. -/
theorem Memory.setWord_ordinary {m : Memory} (h : m.ordinary = true) {a : Word} (ha : a.toNat + 1 < 0xFE00) (v : Word) :
    (m.setWord a v).ordinary = true :=
  Memory.set_ordinary (Memory.set_ordinary h (by omega) _) ha _

/-- Reading one byte after a word write (20_memory.md rule R41). -/
theorem Memory.get_setWord {m : Memory} (h : m.wf = true) (a v : Word) (k : Nat) :
    (m.setWord a v).get k =
      if k = a.toNat + 1 then v.extractLsb' 8 8 else if k = a.toNat then v.extractLsb' 0 8 else m.get k := by
  unfold Memory.setWord
  rw [Memory.get_set (Memory.set_wf h _ _), Memory.get_set h]

/-- Two canonical lists, both from the same address upward, that read alike are the same list. -/
theorem Memory.ext_of_wfFrom {m n : Memory} {lo : Nat} (hm : Memory.wfFrom lo m = true) (hn : Memory.wfFrom lo n = true)
    (h : ∀ k, m.get k = n.get k) : m = n := by
  induction m generalizing lo n with
  | nil =>
    cases n with
    | nil => rfl
    | cons c n =>
      obtain ⟨a, b⟩ := c
      simp only [Memory.wfFrom, Bool.and_eq_true, decide_eq_true_eq, bne_iff_ne] at hn
      have := h a
      simp [Memory.get_cons_entry] at this
      exact absurd this.symm hn.1.2
  | cons c m ih =>
    obtain ⟨a, b⟩ := c
    simp only [Memory.wfFrom, Bool.and_eq_true, decide_eq_true_eq, bne_iff_ne] at hm
    cases n with
    | nil =>
      have := h a
      simp [Memory.get_cons_entry] at this
      exact absurd this hm.1.2
    | cons c' n =>
      obtain ⟨a', b'⟩ := c'
      simp only [Memory.wfFrom, Bool.and_eq_true, decide_eq_true_eq, bne_iff_ne] at hn
      have haa : a = a' := by
        rcases Nat.lt_trichotomy a a' with hlt | heq | hgt
        · have := h a
          rw [Memory.get_cons_entry, if_pos rfl, Memory.get_cons_entry, if_neg (by omega),
            Memory.get_of_wfFrom_lt hn.2 (by omega)] at this
          exact absurd this hm.1.2
        · exact heq
        · have := h a'
          rw [Memory.get_cons_entry, if_neg (by omega), Memory.get_of_wfFrom_lt hm.2 (by omega),
            Memory.get_cons_entry, if_pos rfl] at this
          exact absurd this.symm hn.1.2
      subst haa
      have hb : b = b' := by simpa [Memory.get_cons_entry] using h a
      subst hb
      congr 1
      refine ih hm.2 hn.2 fun k => ?_
      by_cases hk : k = a
      · subst hk
        rw [Memory.get_of_wfFrom_lt hm.2 (by omega), Memory.get_of_wfFrom_lt hn.2 (by omega)]
      · simpa [Memory.get_cons_entry, Ne.symm hk, fun e : a = k => hk e.symm] using h k

end Sys2Proof.Machine
end

