-- ==== Sys2Proof/Laws/State.lean ====
section
/-!
SUPPORT. One lemma for each field of State under each named update, so that no later proof unfolds a record update; and register reads under
each update.
-/

namespace Sys2Proof.Machine

/-! ### State.withCC -/

@[simp] theorem State.withCC_r0 (s : State) (n z p : Bool) : (s.withCC n z p).r0 = s.r0 := rfl
@[simp] theorem State.withCC_r1 (s : State) (n z p : Bool) : (s.withCC n z p).r1 = s.r1 := rfl
@[simp] theorem State.withCC_r2 (s : State) (n z p : Bool) : (s.withCC n z p).r2 = s.r2 := rfl
@[simp] theorem State.withCC_r3 (s : State) (n z p : Bool) : (s.withCC n z p).r3 = s.r3 := rfl
@[simp] theorem State.withCC_r4 (s : State) (n z p : Bool) : (s.withCC n z p).r4 = s.r4 := rfl
@[simp] theorem State.withCC_r5 (s : State) (n z p : Bool) : (s.withCC n z p).r5 = s.r5 := rfl
@[simp] theorem State.withCC_r7 (s : State) (n z p : Bool) : (s.withCC n z p).r7 = s.r7 := rfl
@[simp] theorem State.withCC_ssp (s : State) (n z p : Bool) : (s.withCC n z p).ssp = s.ssp := rfl
@[simp] theorem State.withCC_usp (s : State) (n z p : Bool) : (s.withCC n z p).usp = s.usp := rfl
@[simp] theorem State.withCC_pc (s : State) (n z p : Bool) : (s.withCC n z p).pc = s.pc := rfl
@[simp] theorem State.withCC_mode (s : State) (n z p : Bool) : (s.withCC n z p).mode = s.mode := rfl
@[simp] theorem State.withCC_ccN (s : State) (n z p : Bool) : (s.withCC n z p).ccN = n := rfl
@[simp] theorem State.withCC_ccZ (s : State) (n z p : Bool) : (s.withCC n z p).ccZ = z := rfl
@[simp] theorem State.withCC_ccP (s : State) (n z p : Bool) : (s.withCC n z p).ccP = p := rfl
@[simp] theorem State.withCC_mem (s : State) (n z p : Bool) : (s.withCC n z p).mem = s.mem := rfl
@[simp] theorem State.withCC_kbReady (s : State) (n z p : Bool) : (s.withCC n z p).kbReady = s.kbReady := rfl
@[simp] theorem State.withCC_kbIE (s : State) (n z p : Bool) : (s.withCC n z p).kbIE = s.kbIE := rfl
@[simp] theorem State.withCC_kbdr (s : State) (n z p : Bool) : (s.withCC n z p).kbdr = s.kbdr := rfl
@[simp] theorem State.withCC_dsrReady (s : State) (n z p : Bool) : (s.withCC n z p).dsrReady = s.dsrReady := rfl
@[simp] theorem State.withCC_ddr (s : State) (n z p : Bool) : (s.withCC n z p).ddr = s.ddr := rfl
@[simp] theorem State.withCC_clock (s : State) (n z p : Bool) : (s.withCC n z p).clock = s.clock := rfl
@[simp] theorem State.withCC_display (s : State) (n z p : Bool) : (s.withCC n z p).display = s.display := rfl
@[simp] theorem State.withCC_schedule (s : State) (n z p : Bool) : (s.withCC n z p).schedule = s.schedule := rfl
@[simp] theorem getReg_withCC (s : State) (n z p : Bool) (r : Reg) : getReg (s.withCC n z p) r = getReg s r := by cases r <;> rfl

/-! ### State.withPSR -/

@[simp] theorem State.withPSR_r0 (s : State) (w : Word) : (s.withPSR w).r0 = s.r0 := rfl
@[simp] theorem State.withPSR_r1 (s : State) (w : Word) : (s.withPSR w).r1 = s.r1 := rfl
@[simp] theorem State.withPSR_r2 (s : State) (w : Word) : (s.withPSR w).r2 = s.r2 := rfl
@[simp] theorem State.withPSR_r3 (s : State) (w : Word) : (s.withPSR w).r3 = s.r3 := rfl
@[simp] theorem State.withPSR_r4 (s : State) (w : Word) : (s.withPSR w).r4 = s.r4 := rfl
@[simp] theorem State.withPSR_r5 (s : State) (w : Word) : (s.withPSR w).r5 = s.r5 := rfl
@[simp] theorem State.withPSR_r7 (s : State) (w : Word) : (s.withPSR w).r7 = s.r7 := rfl
@[simp] theorem State.withPSR_ssp (s : State) (w : Word) : (s.withPSR w).ssp = s.ssp := rfl
@[simp] theorem State.withPSR_usp (s : State) (w : Word) : (s.withPSR w).usp = s.usp := rfl
@[simp] theorem State.withPSR_pc (s : State) (w : Word) : (s.withPSR w).pc = s.pc := rfl
@[simp] theorem State.withPSR_mode (s : State) (w : Word) : (s.withPSR w).mode = Mode.ofBit (w.getLsbD 15) := rfl
@[simp] theorem State.withPSR_ccN (s : State) (w : Word) : (s.withPSR w).ccN = w.getLsbD 2 := rfl
@[simp] theorem State.withPSR_ccZ (s : State) (w : Word) : (s.withPSR w).ccZ = w.getLsbD 1 := rfl
@[simp] theorem State.withPSR_ccP (s : State) (w : Word) : (s.withPSR w).ccP = w.getLsbD 0 := rfl
@[simp] theorem State.withPSR_mem (s : State) (w : Word) : (s.withPSR w).mem = s.mem := rfl
@[simp] theorem State.withPSR_kbReady (s : State) (w : Word) : (s.withPSR w).kbReady = s.kbReady := rfl
@[simp] theorem State.withPSR_kbIE (s : State) (w : Word) : (s.withPSR w).kbIE = s.kbIE := rfl
@[simp] theorem State.withPSR_kbdr (s : State) (w : Word) : (s.withPSR w).kbdr = s.kbdr := rfl
@[simp] theorem State.withPSR_dsrReady (s : State) (w : Word) : (s.withPSR w).dsrReady = s.dsrReady := rfl
@[simp] theorem State.withPSR_ddr (s : State) (w : Word) : (s.withPSR w).ddr = s.ddr := rfl
@[simp] theorem State.withPSR_clock (s : State) (w : Word) : (s.withPSR w).clock = s.clock := rfl
@[simp] theorem State.withPSR_display (s : State) (w : Word) : (s.withPSR w).display = s.display := rfl
@[simp] theorem State.withPSR_schedule (s : State) (w : Word) : (s.withPSR w).schedule = s.schedule := rfl

/-! ### State.withKbReady -/

@[simp] theorem State.withKbReady_r0 (s : State) (b : Bool) : (s.withKbReady b).r0 = s.r0 := rfl
@[simp] theorem State.withKbReady_r1 (s : State) (b : Bool) : (s.withKbReady b).r1 = s.r1 := rfl
@[simp] theorem State.withKbReady_r2 (s : State) (b : Bool) : (s.withKbReady b).r2 = s.r2 := rfl
@[simp] theorem State.withKbReady_r3 (s : State) (b : Bool) : (s.withKbReady b).r3 = s.r3 := rfl
@[simp] theorem State.withKbReady_r4 (s : State) (b : Bool) : (s.withKbReady b).r4 = s.r4 := rfl
@[simp] theorem State.withKbReady_r5 (s : State) (b : Bool) : (s.withKbReady b).r5 = s.r5 := rfl
@[simp] theorem State.withKbReady_r7 (s : State) (b : Bool) : (s.withKbReady b).r7 = s.r7 := rfl
@[simp] theorem State.withKbReady_ssp (s : State) (b : Bool) : (s.withKbReady b).ssp = s.ssp := rfl
@[simp] theorem State.withKbReady_usp (s : State) (b : Bool) : (s.withKbReady b).usp = s.usp := rfl
@[simp] theorem State.withKbReady_pc (s : State) (b : Bool) : (s.withKbReady b).pc = s.pc := rfl
@[simp] theorem State.withKbReady_mode (s : State) (b : Bool) : (s.withKbReady b).mode = s.mode := rfl
@[simp] theorem State.withKbReady_ccN (s : State) (b : Bool) : (s.withKbReady b).ccN = s.ccN := rfl
@[simp] theorem State.withKbReady_ccZ (s : State) (b : Bool) : (s.withKbReady b).ccZ = s.ccZ := rfl
@[simp] theorem State.withKbReady_ccP (s : State) (b : Bool) : (s.withKbReady b).ccP = s.ccP := rfl
@[simp] theorem State.withKbReady_mem (s : State) (b : Bool) : (s.withKbReady b).mem = s.mem := rfl
@[simp] theorem State.withKbReady_kbReady (s : State) (b : Bool) : (s.withKbReady b).kbReady = b := rfl
@[simp] theorem State.withKbReady_kbIE (s : State) (b : Bool) : (s.withKbReady b).kbIE = s.kbIE := rfl
@[simp] theorem State.withKbReady_kbdr (s : State) (b : Bool) : (s.withKbReady b).kbdr = s.kbdr := rfl
@[simp] theorem State.withKbReady_dsrReady (s : State) (b : Bool) : (s.withKbReady b).dsrReady = s.dsrReady := rfl
@[simp] theorem State.withKbReady_ddr (s : State) (b : Bool) : (s.withKbReady b).ddr = s.ddr := rfl
@[simp] theorem State.withKbReady_clock (s : State) (b : Bool) : (s.withKbReady b).clock = s.clock := rfl
@[simp] theorem State.withKbReady_display (s : State) (b : Bool) : (s.withKbReady b).display = s.display := rfl
@[simp] theorem State.withKbReady_schedule (s : State) (b : Bool) : (s.withKbReady b).schedule = s.schedule := rfl
@[simp] theorem getReg_withKbReady (s : State) (b : Bool) (r : Reg) : getReg (s.withKbReady b) r = getReg s r := by cases r <;> rfl

/-! ### State.withKbIE -/

@[simp] theorem State.withKbIE_r0 (s : State) (b : Bool) : (s.withKbIE b).r0 = s.r0 := rfl
@[simp] theorem State.withKbIE_r1 (s : State) (b : Bool) : (s.withKbIE b).r1 = s.r1 := rfl
@[simp] theorem State.withKbIE_r2 (s : State) (b : Bool) : (s.withKbIE b).r2 = s.r2 := rfl
@[simp] theorem State.withKbIE_r3 (s : State) (b : Bool) : (s.withKbIE b).r3 = s.r3 := rfl
@[simp] theorem State.withKbIE_r4 (s : State) (b : Bool) : (s.withKbIE b).r4 = s.r4 := rfl
@[simp] theorem State.withKbIE_r5 (s : State) (b : Bool) : (s.withKbIE b).r5 = s.r5 := rfl
@[simp] theorem State.withKbIE_r7 (s : State) (b : Bool) : (s.withKbIE b).r7 = s.r7 := rfl
@[simp] theorem State.withKbIE_ssp (s : State) (b : Bool) : (s.withKbIE b).ssp = s.ssp := rfl
@[simp] theorem State.withKbIE_usp (s : State) (b : Bool) : (s.withKbIE b).usp = s.usp := rfl
@[simp] theorem State.withKbIE_pc (s : State) (b : Bool) : (s.withKbIE b).pc = s.pc := rfl
@[simp] theorem State.withKbIE_mode (s : State) (b : Bool) : (s.withKbIE b).mode = s.mode := rfl
@[simp] theorem State.withKbIE_ccN (s : State) (b : Bool) : (s.withKbIE b).ccN = s.ccN := rfl
@[simp] theorem State.withKbIE_ccZ (s : State) (b : Bool) : (s.withKbIE b).ccZ = s.ccZ := rfl
@[simp] theorem State.withKbIE_ccP (s : State) (b : Bool) : (s.withKbIE b).ccP = s.ccP := rfl
@[simp] theorem State.withKbIE_mem (s : State) (b : Bool) : (s.withKbIE b).mem = s.mem := rfl
@[simp] theorem State.withKbIE_kbReady (s : State) (b : Bool) : (s.withKbIE b).kbReady = s.kbReady := rfl
@[simp] theorem State.withKbIE_kbIE (s : State) (b : Bool) : (s.withKbIE b).kbIE = b := rfl
@[simp] theorem State.withKbIE_kbdr (s : State) (b : Bool) : (s.withKbIE b).kbdr = s.kbdr := rfl
@[simp] theorem State.withKbIE_dsrReady (s : State) (b : Bool) : (s.withKbIE b).dsrReady = s.dsrReady := rfl
@[simp] theorem State.withKbIE_ddr (s : State) (b : Bool) : (s.withKbIE b).ddr = s.ddr := rfl
@[simp] theorem State.withKbIE_clock (s : State) (b : Bool) : (s.withKbIE b).clock = s.clock := rfl
@[simp] theorem State.withKbIE_display (s : State) (b : Bool) : (s.withKbIE b).display = s.display := rfl
@[simp] theorem State.withKbIE_schedule (s : State) (b : Bool) : (s.withKbIE b).schedule = s.schedule := rfl
@[simp] theorem getReg_withKbIE (s : State) (b : Bool) (r : Reg) : getReg (s.withKbIE b) r = getReg s r := by cases r <;> rfl

/-! ### State.withDsrReady -/

@[simp] theorem State.withDsrReady_r0 (s : State) (b : Bool) : (s.withDsrReady b).r0 = s.r0 := rfl
@[simp] theorem State.withDsrReady_r1 (s : State) (b : Bool) : (s.withDsrReady b).r1 = s.r1 := rfl
@[simp] theorem State.withDsrReady_r2 (s : State) (b : Bool) : (s.withDsrReady b).r2 = s.r2 := rfl
@[simp] theorem State.withDsrReady_r3 (s : State) (b : Bool) : (s.withDsrReady b).r3 = s.r3 := rfl
@[simp] theorem State.withDsrReady_r4 (s : State) (b : Bool) : (s.withDsrReady b).r4 = s.r4 := rfl
@[simp] theorem State.withDsrReady_r5 (s : State) (b : Bool) : (s.withDsrReady b).r5 = s.r5 := rfl
@[simp] theorem State.withDsrReady_r7 (s : State) (b : Bool) : (s.withDsrReady b).r7 = s.r7 := rfl
@[simp] theorem State.withDsrReady_ssp (s : State) (b : Bool) : (s.withDsrReady b).ssp = s.ssp := rfl
@[simp] theorem State.withDsrReady_usp (s : State) (b : Bool) : (s.withDsrReady b).usp = s.usp := rfl
@[simp] theorem State.withDsrReady_pc (s : State) (b : Bool) : (s.withDsrReady b).pc = s.pc := rfl
@[simp] theorem State.withDsrReady_mode (s : State) (b : Bool) : (s.withDsrReady b).mode = s.mode := rfl
@[simp] theorem State.withDsrReady_ccN (s : State) (b : Bool) : (s.withDsrReady b).ccN = s.ccN := rfl
@[simp] theorem State.withDsrReady_ccZ (s : State) (b : Bool) : (s.withDsrReady b).ccZ = s.ccZ := rfl
@[simp] theorem State.withDsrReady_ccP (s : State) (b : Bool) : (s.withDsrReady b).ccP = s.ccP := rfl
@[simp] theorem State.withDsrReady_mem (s : State) (b : Bool) : (s.withDsrReady b).mem = s.mem := rfl
@[simp] theorem State.withDsrReady_kbReady (s : State) (b : Bool) : (s.withDsrReady b).kbReady = s.kbReady := rfl
@[simp] theorem State.withDsrReady_kbIE (s : State) (b : Bool) : (s.withDsrReady b).kbIE = s.kbIE := rfl
@[simp] theorem State.withDsrReady_kbdr (s : State) (b : Bool) : (s.withDsrReady b).kbdr = s.kbdr := rfl
@[simp] theorem State.withDsrReady_dsrReady (s : State) (b : Bool) : (s.withDsrReady b).dsrReady = b := rfl
@[simp] theorem State.withDsrReady_ddr (s : State) (b : Bool) : (s.withDsrReady b).ddr = s.ddr := rfl
@[simp] theorem State.withDsrReady_clock (s : State) (b : Bool) : (s.withDsrReady b).clock = s.clock := rfl
@[simp] theorem State.withDsrReady_display (s : State) (b : Bool) : (s.withDsrReady b).display = s.display := rfl
@[simp] theorem State.withDsrReady_schedule (s : State) (b : Bool) : (s.withDsrReady b).schedule = s.schedule := rfl
@[simp] theorem getReg_withDsrReady (s : State) (b : Bool) (r : Reg) : getReg (s.withDsrReady b) r = getReg s r := by cases r <;> rfl

/-! ### State.withClock -/

@[simp] theorem State.withClock_r0 (s : State) (b : Bool) : (s.withClock b).r0 = s.r0 := rfl
@[simp] theorem State.withClock_r1 (s : State) (b : Bool) : (s.withClock b).r1 = s.r1 := rfl
@[simp] theorem State.withClock_r2 (s : State) (b : Bool) : (s.withClock b).r2 = s.r2 := rfl
@[simp] theorem State.withClock_r3 (s : State) (b : Bool) : (s.withClock b).r3 = s.r3 := rfl
@[simp] theorem State.withClock_r4 (s : State) (b : Bool) : (s.withClock b).r4 = s.r4 := rfl
@[simp] theorem State.withClock_r5 (s : State) (b : Bool) : (s.withClock b).r5 = s.r5 := rfl
@[simp] theorem State.withClock_r7 (s : State) (b : Bool) : (s.withClock b).r7 = s.r7 := rfl
@[simp] theorem State.withClock_ssp (s : State) (b : Bool) : (s.withClock b).ssp = s.ssp := rfl
@[simp] theorem State.withClock_usp (s : State) (b : Bool) : (s.withClock b).usp = s.usp := rfl
@[simp] theorem State.withClock_pc (s : State) (b : Bool) : (s.withClock b).pc = s.pc := rfl
@[simp] theorem State.withClock_mode (s : State) (b : Bool) : (s.withClock b).mode = s.mode := rfl
@[simp] theorem State.withClock_ccN (s : State) (b : Bool) : (s.withClock b).ccN = s.ccN := rfl
@[simp] theorem State.withClock_ccZ (s : State) (b : Bool) : (s.withClock b).ccZ = s.ccZ := rfl
@[simp] theorem State.withClock_ccP (s : State) (b : Bool) : (s.withClock b).ccP = s.ccP := rfl
@[simp] theorem State.withClock_mem (s : State) (b : Bool) : (s.withClock b).mem = s.mem := rfl
@[simp] theorem State.withClock_kbReady (s : State) (b : Bool) : (s.withClock b).kbReady = s.kbReady := rfl
@[simp] theorem State.withClock_kbIE (s : State) (b : Bool) : (s.withClock b).kbIE = s.kbIE := rfl
@[simp] theorem State.withClock_kbdr (s : State) (b : Bool) : (s.withClock b).kbdr = s.kbdr := rfl
@[simp] theorem State.withClock_dsrReady (s : State) (b : Bool) : (s.withClock b).dsrReady = s.dsrReady := rfl
@[simp] theorem State.withClock_ddr (s : State) (b : Bool) : (s.withClock b).ddr = s.ddr := rfl
@[simp] theorem State.withClock_clock (s : State) (b : Bool) : (s.withClock b).clock = b := rfl
@[simp] theorem State.withClock_display (s : State) (b : Bool) : (s.withClock b).display = s.display := rfl
@[simp] theorem State.withClock_schedule (s : State) (b : Bool) : (s.withClock b).schedule = s.schedule := rfl
@[simp] theorem getReg_withClock (s : State) (b : Bool) (r : Reg) : getReg (s.withClock b) r = getReg s r := by cases r <;> rfl

/-! ### State.displayChar -/

@[simp] theorem State.displayChar_r0 (s : State) (c : Byte) : (s.displayChar c).r0 = s.r0 := rfl
@[simp] theorem State.displayChar_r1 (s : State) (c : Byte) : (s.displayChar c).r1 = s.r1 := rfl
@[simp] theorem State.displayChar_r2 (s : State) (c : Byte) : (s.displayChar c).r2 = s.r2 := rfl
@[simp] theorem State.displayChar_r3 (s : State) (c : Byte) : (s.displayChar c).r3 = s.r3 := rfl
@[simp] theorem State.displayChar_r4 (s : State) (c : Byte) : (s.displayChar c).r4 = s.r4 := rfl
@[simp] theorem State.displayChar_r5 (s : State) (c : Byte) : (s.displayChar c).r5 = s.r5 := rfl
@[simp] theorem State.displayChar_r7 (s : State) (c : Byte) : (s.displayChar c).r7 = s.r7 := rfl
@[simp] theorem State.displayChar_ssp (s : State) (c : Byte) : (s.displayChar c).ssp = s.ssp := rfl
@[simp] theorem State.displayChar_usp (s : State) (c : Byte) : (s.displayChar c).usp = s.usp := rfl
@[simp] theorem State.displayChar_pc (s : State) (c : Byte) : (s.displayChar c).pc = s.pc := rfl
@[simp] theorem State.displayChar_mode (s : State) (c : Byte) : (s.displayChar c).mode = s.mode := rfl
@[simp] theorem State.displayChar_ccN (s : State) (c : Byte) : (s.displayChar c).ccN = s.ccN := rfl
@[simp] theorem State.displayChar_ccZ (s : State) (c : Byte) : (s.displayChar c).ccZ = s.ccZ := rfl
@[simp] theorem State.displayChar_ccP (s : State) (c : Byte) : (s.displayChar c).ccP = s.ccP := rfl
@[simp] theorem State.displayChar_mem (s : State) (c : Byte) : (s.displayChar c).mem = s.mem := rfl
@[simp] theorem State.displayChar_kbReady (s : State) (c : Byte) : (s.displayChar c).kbReady = s.kbReady := rfl
@[simp] theorem State.displayChar_kbIE (s : State) (c : Byte) : (s.displayChar c).kbIE = s.kbIE := rfl
@[simp] theorem State.displayChar_kbdr (s : State) (c : Byte) : (s.displayChar c).kbdr = s.kbdr := rfl
@[simp] theorem State.displayChar_dsrReady (s : State) (c : Byte) : (s.displayChar c).dsrReady = false := rfl
@[simp] theorem State.displayChar_ddr (s : State) (c : Byte) : (s.displayChar c).ddr = c := rfl
@[simp] theorem State.displayChar_clock (s : State) (c : Byte) : (s.displayChar c).clock = s.clock := rfl
@[simp] theorem State.displayChar_display (s : State) (c : Byte) : (s.displayChar c).display = s.display ++ [c] := rfl
@[simp] theorem State.displayChar_schedule (s : State) (c : Byte) : (s.displayChar c).schedule = s.schedule := rfl
@[simp] theorem getReg_displayChar (s : State) (c : Byte) (r : Reg) : getReg (s.displayChar c) r = getReg s r := by cases r <;> rfl

/-! ### State.withPC -/

@[simp] theorem State.withPC_r0 (s : State) (v : Word) : (s.withPC v).r0 = s.r0 := rfl
@[simp] theorem State.withPC_r1 (s : State) (v : Word) : (s.withPC v).r1 = s.r1 := rfl
@[simp] theorem State.withPC_r2 (s : State) (v : Word) : (s.withPC v).r2 = s.r2 := rfl
@[simp] theorem State.withPC_r3 (s : State) (v : Word) : (s.withPC v).r3 = s.r3 := rfl
@[simp] theorem State.withPC_r4 (s : State) (v : Word) : (s.withPC v).r4 = s.r4 := rfl
@[simp] theorem State.withPC_r5 (s : State) (v : Word) : (s.withPC v).r5 = s.r5 := rfl
@[simp] theorem State.withPC_r7 (s : State) (v : Word) : (s.withPC v).r7 = s.r7 := rfl
@[simp] theorem State.withPC_ssp (s : State) (v : Word) : (s.withPC v).ssp = s.ssp := rfl
@[simp] theorem State.withPC_usp (s : State) (v : Word) : (s.withPC v).usp = s.usp := rfl
@[simp] theorem State.withPC_pc (s : State) (v : Word) : (s.withPC v).pc = v := rfl
@[simp] theorem State.withPC_mode (s : State) (v : Word) : (s.withPC v).mode = s.mode := rfl
@[simp] theorem State.withPC_ccN (s : State) (v : Word) : (s.withPC v).ccN = s.ccN := rfl
@[simp] theorem State.withPC_ccZ (s : State) (v : Word) : (s.withPC v).ccZ = s.ccZ := rfl
@[simp] theorem State.withPC_ccP (s : State) (v : Word) : (s.withPC v).ccP = s.ccP := rfl
@[simp] theorem State.withPC_mem (s : State) (v : Word) : (s.withPC v).mem = s.mem := rfl
@[simp] theorem State.withPC_kbReady (s : State) (v : Word) : (s.withPC v).kbReady = s.kbReady := rfl
@[simp] theorem State.withPC_kbIE (s : State) (v : Word) : (s.withPC v).kbIE = s.kbIE := rfl
@[simp] theorem State.withPC_kbdr (s : State) (v : Word) : (s.withPC v).kbdr = s.kbdr := rfl
@[simp] theorem State.withPC_dsrReady (s : State) (v : Word) : (s.withPC v).dsrReady = s.dsrReady := rfl
@[simp] theorem State.withPC_ddr (s : State) (v : Word) : (s.withPC v).ddr = s.ddr := rfl
@[simp] theorem State.withPC_clock (s : State) (v : Word) : (s.withPC v).clock = s.clock := rfl
@[simp] theorem State.withPC_display (s : State) (v : Word) : (s.withPC v).display = s.display := rfl
@[simp] theorem State.withPC_schedule (s : State) (v : Word) : (s.withPC v).schedule = s.schedule := rfl
@[simp] theorem getReg_withPC (s : State) (v : Word) (r : Reg) : getReg (s.withPC v) r = getReg s r := by cases r <;> rfl

/-! ### State.withSSP -/

@[simp] theorem State.withSSP_r0 (s : State) (v : Word) : (s.withSSP v).r0 = s.r0 := rfl
@[simp] theorem State.withSSP_r1 (s : State) (v : Word) : (s.withSSP v).r1 = s.r1 := rfl
@[simp] theorem State.withSSP_r2 (s : State) (v : Word) : (s.withSSP v).r2 = s.r2 := rfl
@[simp] theorem State.withSSP_r3 (s : State) (v : Word) : (s.withSSP v).r3 = s.r3 := rfl
@[simp] theorem State.withSSP_r4 (s : State) (v : Word) : (s.withSSP v).r4 = s.r4 := rfl
@[simp] theorem State.withSSP_r5 (s : State) (v : Word) : (s.withSSP v).r5 = s.r5 := rfl
@[simp] theorem State.withSSP_r7 (s : State) (v : Word) : (s.withSSP v).r7 = s.r7 := rfl
@[simp] theorem State.withSSP_ssp (s : State) (v : Word) : (s.withSSP v).ssp = v := rfl
@[simp] theorem State.withSSP_usp (s : State) (v : Word) : (s.withSSP v).usp = s.usp := rfl
@[simp] theorem State.withSSP_pc (s : State) (v : Word) : (s.withSSP v).pc = s.pc := rfl
@[simp] theorem State.withSSP_mode (s : State) (v : Word) : (s.withSSP v).mode = s.mode := rfl
@[simp] theorem State.withSSP_ccN (s : State) (v : Word) : (s.withSSP v).ccN = s.ccN := rfl
@[simp] theorem State.withSSP_ccZ (s : State) (v : Word) : (s.withSSP v).ccZ = s.ccZ := rfl
@[simp] theorem State.withSSP_ccP (s : State) (v : Word) : (s.withSSP v).ccP = s.ccP := rfl
@[simp] theorem State.withSSP_mem (s : State) (v : Word) : (s.withSSP v).mem = s.mem := rfl
@[simp] theorem State.withSSP_kbReady (s : State) (v : Word) : (s.withSSP v).kbReady = s.kbReady := rfl
@[simp] theorem State.withSSP_kbIE (s : State) (v : Word) : (s.withSSP v).kbIE = s.kbIE := rfl
@[simp] theorem State.withSSP_kbdr (s : State) (v : Word) : (s.withSSP v).kbdr = s.kbdr := rfl
@[simp] theorem State.withSSP_dsrReady (s : State) (v : Word) : (s.withSSP v).dsrReady = s.dsrReady := rfl
@[simp] theorem State.withSSP_ddr (s : State) (v : Word) : (s.withSSP v).ddr = s.ddr := rfl
@[simp] theorem State.withSSP_clock (s : State) (v : Word) : (s.withSSP v).clock = s.clock := rfl
@[simp] theorem State.withSSP_display (s : State) (v : Word) : (s.withSSP v).display = s.display := rfl
@[simp] theorem State.withSSP_schedule (s : State) (v : Word) : (s.withSSP v).schedule = s.schedule := rfl

/-! ### State.withMode -/

@[simp] theorem State.withMode_r0 (s : State) (m : Mode) : (s.withMode m).r0 = s.r0 := rfl
@[simp] theorem State.withMode_r1 (s : State) (m : Mode) : (s.withMode m).r1 = s.r1 := rfl
@[simp] theorem State.withMode_r2 (s : State) (m : Mode) : (s.withMode m).r2 = s.r2 := rfl
@[simp] theorem State.withMode_r3 (s : State) (m : Mode) : (s.withMode m).r3 = s.r3 := rfl
@[simp] theorem State.withMode_r4 (s : State) (m : Mode) : (s.withMode m).r4 = s.r4 := rfl
@[simp] theorem State.withMode_r5 (s : State) (m : Mode) : (s.withMode m).r5 = s.r5 := rfl
@[simp] theorem State.withMode_r7 (s : State) (m : Mode) : (s.withMode m).r7 = s.r7 := rfl
@[simp] theorem State.withMode_ssp (s : State) (m : Mode) : (s.withMode m).ssp = s.ssp := rfl
@[simp] theorem State.withMode_usp (s : State) (m : Mode) : (s.withMode m).usp = s.usp := rfl
@[simp] theorem State.withMode_pc (s : State) (m : Mode) : (s.withMode m).pc = s.pc := rfl
@[simp] theorem State.withMode_mode (s : State) (m : Mode) : (s.withMode m).mode = m := rfl
@[simp] theorem State.withMode_ccN (s : State) (m : Mode) : (s.withMode m).ccN = s.ccN := rfl
@[simp] theorem State.withMode_ccZ (s : State) (m : Mode) : (s.withMode m).ccZ = s.ccZ := rfl
@[simp] theorem State.withMode_ccP (s : State) (m : Mode) : (s.withMode m).ccP = s.ccP := rfl
@[simp] theorem State.withMode_mem (s : State) (m : Mode) : (s.withMode m).mem = s.mem := rfl
@[simp] theorem State.withMode_kbReady (s : State) (m : Mode) : (s.withMode m).kbReady = s.kbReady := rfl
@[simp] theorem State.withMode_kbIE (s : State) (m : Mode) : (s.withMode m).kbIE = s.kbIE := rfl
@[simp] theorem State.withMode_kbdr (s : State) (m : Mode) : (s.withMode m).kbdr = s.kbdr := rfl
@[simp] theorem State.withMode_dsrReady (s : State) (m : Mode) : (s.withMode m).dsrReady = s.dsrReady := rfl
@[simp] theorem State.withMode_ddr (s : State) (m : Mode) : (s.withMode m).ddr = s.ddr := rfl
@[simp] theorem State.withMode_clock (s : State) (m : Mode) : (s.withMode m).clock = s.clock := rfl
@[simp] theorem State.withMode_display (s : State) (m : Mode) : (s.withMode m).display = s.display := rfl
@[simp] theorem State.withMode_schedule (s : State) (m : Mode) : (s.withMode m).schedule = s.schedule := rfl

/-! ### State.withMem -/

@[simp] theorem State.withMem_r0 (s : State) (m : Memory) : (s.withMem m).r0 = s.r0 := rfl
@[simp] theorem State.withMem_r1 (s : State) (m : Memory) : (s.withMem m).r1 = s.r1 := rfl
@[simp] theorem State.withMem_r2 (s : State) (m : Memory) : (s.withMem m).r2 = s.r2 := rfl
@[simp] theorem State.withMem_r3 (s : State) (m : Memory) : (s.withMem m).r3 = s.r3 := rfl
@[simp] theorem State.withMem_r4 (s : State) (m : Memory) : (s.withMem m).r4 = s.r4 := rfl
@[simp] theorem State.withMem_r5 (s : State) (m : Memory) : (s.withMem m).r5 = s.r5 := rfl
@[simp] theorem State.withMem_r7 (s : State) (m : Memory) : (s.withMem m).r7 = s.r7 := rfl
@[simp] theorem State.withMem_ssp (s : State) (m : Memory) : (s.withMem m).ssp = s.ssp := rfl
@[simp] theorem State.withMem_usp (s : State) (m : Memory) : (s.withMem m).usp = s.usp := rfl
@[simp] theorem State.withMem_pc (s : State) (m : Memory) : (s.withMem m).pc = s.pc := rfl
@[simp] theorem State.withMem_mode (s : State) (m : Memory) : (s.withMem m).mode = s.mode := rfl
@[simp] theorem State.withMem_ccN (s : State) (m : Memory) : (s.withMem m).ccN = s.ccN := rfl
@[simp] theorem State.withMem_ccZ (s : State) (m : Memory) : (s.withMem m).ccZ = s.ccZ := rfl
@[simp] theorem State.withMem_ccP (s : State) (m : Memory) : (s.withMem m).ccP = s.ccP := rfl
@[simp] theorem State.withMem_mem (s : State) (m : Memory) : (s.withMem m).mem = m := rfl
@[simp] theorem State.withMem_kbReady (s : State) (m : Memory) : (s.withMem m).kbReady = s.kbReady := rfl
@[simp] theorem State.withMem_kbIE (s : State) (m : Memory) : (s.withMem m).kbIE = s.kbIE := rfl
@[simp] theorem State.withMem_kbdr (s : State) (m : Memory) : (s.withMem m).kbdr = s.kbdr := rfl
@[simp] theorem State.withMem_dsrReady (s : State) (m : Memory) : (s.withMem m).dsrReady = s.dsrReady := rfl
@[simp] theorem State.withMem_ddr (s : State) (m : Memory) : (s.withMem m).ddr = s.ddr := rfl
@[simp] theorem State.withMem_clock (s : State) (m : Memory) : (s.withMem m).clock = s.clock := rfl
@[simp] theorem State.withMem_display (s : State) (m : Memory) : (s.withMem m).display = s.display := rfl
@[simp] theorem State.withMem_schedule (s : State) (m : Memory) : (s.withMem m).schedule = s.schedule := rfl
@[simp] theorem getReg_withMem (s : State) (m : Memory) (r : Reg) : getReg (s.withMem m) r = getReg s r := by cases r <;> rfl

/-! ### setcc -/

@[simp] theorem setcc_r0 (v : Word) (s : State) : (setcc v s).r0 = s.r0 := rfl
@[simp] theorem setcc_r1 (v : Word) (s : State) : (setcc v s).r1 = s.r1 := rfl
@[simp] theorem setcc_r2 (v : Word) (s : State) : (setcc v s).r2 = s.r2 := rfl
@[simp] theorem setcc_r3 (v : Word) (s : State) : (setcc v s).r3 = s.r3 := rfl
@[simp] theorem setcc_r4 (v : Word) (s : State) : (setcc v s).r4 = s.r4 := rfl
@[simp] theorem setcc_r5 (v : Word) (s : State) : (setcc v s).r5 = s.r5 := rfl
@[simp] theorem setcc_r7 (v : Word) (s : State) : (setcc v s).r7 = s.r7 := rfl
@[simp] theorem setcc_ssp (v : Word) (s : State) : (setcc v s).ssp = s.ssp := rfl
@[simp] theorem setcc_usp (v : Word) (s : State) : (setcc v s).usp = s.usp := rfl
@[simp] theorem setcc_pc (v : Word) (s : State) : (setcc v s).pc = s.pc := rfl
@[simp] theorem setcc_mode (v : Word) (s : State) : (setcc v s).mode = s.mode := rfl
@[simp] theorem setcc_ccN (v : Word) (s : State) : (setcc v s).ccN = v.msb := rfl
@[simp] theorem setcc_ccZ (v : Word) (s : State) : (setcc v s).ccZ = (v == 0#16) := rfl
@[simp] theorem setcc_ccP (v : Word) (s : State) : (setcc v s).ccP = (!v.msb && v != 0#16) := rfl
@[simp] theorem setcc_mem (v : Word) (s : State) : (setcc v s).mem = s.mem := rfl
@[simp] theorem setcc_kbReady (v : Word) (s : State) : (setcc v s).kbReady = s.kbReady := rfl
@[simp] theorem setcc_kbIE (v : Word) (s : State) : (setcc v s).kbIE = s.kbIE := rfl
@[simp] theorem setcc_kbdr (v : Word) (s : State) : (setcc v s).kbdr = s.kbdr := rfl
@[simp] theorem setcc_dsrReady (v : Word) (s : State) : (setcc v s).dsrReady = s.dsrReady := rfl
@[simp] theorem setcc_ddr (v : Word) (s : State) : (setcc v s).ddr = s.ddr := rfl
@[simp] theorem setcc_clock (v : Word) (s : State) : (setcc v s).clock = s.clock := rfl
@[simp] theorem setcc_display (v : Word) (s : State) : (setcc v s).display = s.display := rfl
@[simp] theorem setcc_schedule (v : Word) (s : State) : (setcc v s).schedule = s.schedule := rfl
@[simp] theorem getReg_setcc (v : Word) (s : State) (r : Reg) : getReg (setcc v s) r = getReg s r := by cases r <;> rfl

/-! ### setReg: every field that is no register -/

@[simp] theorem setReg_pc (s : State) (r : Reg) (v : Word) : (setReg s r v).pc = s.pc := by
  cases r <;> (simp only [setReg]; try (cases s.mode <;> rfl))
@[simp] theorem setReg_mode (s : State) (r : Reg) (v : Word) : (setReg s r v).mode = s.mode := by
  cases r <;> (simp only [setReg]; try (cases s.mode <;> rfl))
@[simp] theorem setReg_ccN (s : State) (r : Reg) (v : Word) : (setReg s r v).ccN = s.ccN := by
  cases r <;> (simp only [setReg]; try (cases s.mode <;> rfl))
@[simp] theorem setReg_ccZ (s : State) (r : Reg) (v : Word) : (setReg s r v).ccZ = s.ccZ := by
  cases r <;> (simp only [setReg]; try (cases s.mode <;> rfl))
@[simp] theorem setReg_ccP (s : State) (r : Reg) (v : Word) : (setReg s r v).ccP = s.ccP := by
  cases r <;> (simp only [setReg]; try (cases s.mode <;> rfl))
@[simp] theorem setReg_mem (s : State) (r : Reg) (v : Word) : (setReg s r v).mem = s.mem := by
  cases r <;> (simp only [setReg]; try (cases s.mode <;> rfl))
@[simp] theorem setReg_kbReady (s : State) (r : Reg) (v : Word) : (setReg s r v).kbReady = s.kbReady := by
  cases r <;> (simp only [setReg]; try (cases s.mode <;> rfl))
@[simp] theorem setReg_kbIE (s : State) (r : Reg) (v : Word) : (setReg s r v).kbIE = s.kbIE := by
  cases r <;> (simp only [setReg]; try (cases s.mode <;> rfl))
@[simp] theorem setReg_kbdr (s : State) (r : Reg) (v : Word) : (setReg s r v).kbdr = s.kbdr := by
  cases r <;> (simp only [setReg]; try (cases s.mode <;> rfl))
@[simp] theorem setReg_dsrReady (s : State) (r : Reg) (v : Word) : (setReg s r v).dsrReady = s.dsrReady := by
  cases r <;> (simp only [setReg]; try (cases s.mode <;> rfl))
@[simp] theorem setReg_ddr (s : State) (r : Reg) (v : Word) : (setReg s r v).ddr = s.ddr := by
  cases r <;> (simp only [setReg]; try (cases s.mode <;> rfl))
@[simp] theorem setReg_clock (s : State) (r : Reg) (v : Word) : (setReg s r v).clock = s.clock := by
  cases r <;> (simp only [setReg]; try (cases s.mode <;> rfl))
@[simp] theorem setReg_display (s : State) (r : Reg) (v : Word) : (setReg s r v).display = s.display := by
  cases r <;> (simp only [setReg]; try (cases s.mode <;> rfl))
@[simp] theorem setReg_schedule (s : State) (r : Reg) (v : Word) : (setReg s r v).schedule = s.schedule := by
  cases r <;> (simp only [setReg]; try (cases s.mode <;> rfl))

/-! ### setReg: the registers -/

@[simp] theorem getReg_setReg_same (s : State) (r : Reg) (v : Word) : getReg (setReg s r v) r = v := by
  cases r <;> (try rfl)
  cases h : s.mode <;> simp [setReg, getReg, h]

theorem getReg_setReg_ne (s : State) {r q : Reg} (v : Word) (h : q ≠ r) : getReg (setReg s r v) q = getReg s q := by
  cases r <;> cases q <;> (try rfl) <;> (try contradiction) <;> cases hm : s.mode <;> simp [setReg, getReg, hm]

theorem getReg_setReg (s : State) (r q : Reg) (v : Word) :
    getReg (setReg s r v) q = if q = r then v else getReg s q := by
  split
  · next h => subst h; simp
  · next h => exact getReg_setReg_ne s v h

/-- A register write never reaches the user stack pointer from supervisor mode. -/
theorem setReg_usp_of_supervisor (s : State) (r : Reg) (v : Word) (h : s.mode = .supervisor) :
    (setReg s r v).usp = s.usp := by
  cases r <;> simp [setReg, h]

/-- A register write never reaches the supervisor stack pointer from user mode. -/
theorem setReg_ssp_of_user (s : State) (r : Reg) (v : Word) (h : s.mode = .user) :
    (setReg s r v).ssp = s.ssp := by
  cases r <;> simp [setReg, h]

/-- Only register number 6 reaches the stack pointers. -/
theorem setReg_ssp_of_ne (s : State) {r : Reg} (v : Word) (h : r ≠ .r6) : (setReg s r v).ssp = s.ssp := by
  cases r <;> first | rfl | contradiction

theorem setReg_usp_of_ne (s : State) {r : Reg} (v : Word) (h : r ≠ .r6) : (setReg s r v).usp = s.usp := by
  cases r <;> first | rfl | contradiction

/-- Register reads under a change of mode or of SSP, for the registers that are not banked. -/
theorem getReg_withMode_of_ne (s : State) (m : Mode) {r : Reg} (h : r ≠ .r6) : getReg (s.withMode m) r = getReg s r := by
  cases r <;> first | rfl | contradiction

theorem getReg_withSSP_of_ne (s : State) (v : Word) {r : Reg} (h : r ≠ .r6) : getReg (s.withSSP v) r = getReg s r := by
  cases r <;> first | rfl | contradiction

theorem getReg_withPSR_of_ne (s : State) (w : Word) {r : Reg} (h : r ≠ .r6) : getReg (s.withPSR w) r = getReg s r := by
  cases r <;> first | rfl | contradiction

theorem getReg_r6_supervisor (s : State) (h : s.mode = .supervisor) : getReg s .r6 = s.ssp := by simp [getReg, h]

theorem getReg_r6_user (s : State) (h : s.mode = .user) : getReg s .r6 = s.usp := by simp [getReg, h]

/-! ### writeResult and linkAndJump -/

@[simp] theorem writeResult_pc (dr : Reg) (v : Word) (s : State) : (writeResult dr v s).pc = s.pc := by simp [writeResult]
@[simp] theorem writeResult_mode (dr : Reg) (v : Word) (s : State) : (writeResult dr v s).mode = s.mode := by simp [writeResult]
@[simp] theorem writeResult_ccN (dr : Reg) (v : Word) (s : State) : (writeResult dr v s).ccN = v.msb := by simp [writeResult]
@[simp] theorem writeResult_ccZ (dr : Reg) (v : Word) (s : State) : (writeResult dr v s).ccZ = (v == 0#16) := by simp [writeResult]
@[simp] theorem writeResult_ccP (dr : Reg) (v : Word) (s : State) : (writeResult dr v s).ccP = (!v.msb && v != 0#16) := by simp [writeResult]
@[simp] theorem writeResult_mem (dr : Reg) (v : Word) (s : State) : (writeResult dr v s).mem = s.mem := by simp [writeResult]
@[simp] theorem writeResult_kbReady (dr : Reg) (v : Word) (s : State) : (writeResult dr v s).kbReady = s.kbReady := by simp [writeResult]
@[simp] theorem writeResult_kbIE (dr : Reg) (v : Word) (s : State) : (writeResult dr v s).kbIE = s.kbIE := by simp [writeResult]
@[simp] theorem writeResult_kbdr (dr : Reg) (v : Word) (s : State) : (writeResult dr v s).kbdr = s.kbdr := by simp [writeResult]
@[simp] theorem writeResult_dsrReady (dr : Reg) (v : Word) (s : State) : (writeResult dr v s).dsrReady = s.dsrReady := by simp [writeResult]
@[simp] theorem writeResult_ddr (dr : Reg) (v : Word) (s : State) : (writeResult dr v s).ddr = s.ddr := by simp [writeResult]
@[simp] theorem writeResult_clock (dr : Reg) (v : Word) (s : State) : (writeResult dr v s).clock = s.clock := by simp [writeResult]
@[simp] theorem writeResult_display (dr : Reg) (v : Word) (s : State) : (writeResult dr v s).display = s.display := by simp [writeResult]
@[simp] theorem writeResult_schedule (dr : Reg) (v : Word) (s : State) : (writeResult dr v s).schedule = s.schedule := by simp [writeResult]
@[simp] theorem getReg_writeResult (dr : Reg) (v : Word) (s : State) (q : Reg) :
    getReg (writeResult dr v s) q = if q = dr then v else getReg s q := by
  simp [writeResult, getReg_setReg]

@[simp] theorem linkAndJump_pc (s : State) (link target : Word) : (linkAndJump s link target).pc = target := by simp [linkAndJump]
@[simp] theorem linkAndJump_mode (s : State) (link target : Word) : (linkAndJump s link target).mode = s.mode := by simp [linkAndJump]
@[simp] theorem linkAndJump_ccN (s : State) (link target : Word) : (linkAndJump s link target).ccN = s.ccN := by simp [linkAndJump]
@[simp] theorem linkAndJump_ccZ (s : State) (link target : Word) : (linkAndJump s link target).ccZ = s.ccZ := by simp [linkAndJump]
@[simp] theorem linkAndJump_ccP (s : State) (link target : Word) : (linkAndJump s link target).ccP = s.ccP := by simp [linkAndJump]
@[simp] theorem linkAndJump_mem (s : State) (link target : Word) : (linkAndJump s link target).mem = s.mem := by simp [linkAndJump]
@[simp] theorem linkAndJump_kbReady (s : State) (link target : Word) : (linkAndJump s link target).kbReady = s.kbReady := by simp [linkAndJump]
@[simp] theorem linkAndJump_kbIE (s : State) (link target : Word) : (linkAndJump s link target).kbIE = s.kbIE := by simp [linkAndJump]
@[simp] theorem linkAndJump_kbdr (s : State) (link target : Word) : (linkAndJump s link target).kbdr = s.kbdr := by simp [linkAndJump]
@[simp] theorem linkAndJump_dsrReady (s : State) (link target : Word) : (linkAndJump s link target).dsrReady = s.dsrReady := by simp [linkAndJump]
@[simp] theorem linkAndJump_ddr (s : State) (link target : Word) : (linkAndJump s link target).ddr = s.ddr := by simp [linkAndJump]
@[simp] theorem linkAndJump_clock (s : State) (link target : Word) : (linkAndJump s link target).clock = s.clock := by simp [linkAndJump]
@[simp] theorem linkAndJump_display (s : State) (link target : Word) : (linkAndJump s link target).display = s.display := by simp [linkAndJump]
@[simp] theorem linkAndJump_schedule (s : State) (link target : Word) : (linkAndJump s link target).schedule = s.schedule := by simp [linkAndJump]
@[simp] theorem getReg_linkAndJump (s : State) (link target : Word) (q : Reg) :
    getReg (linkAndJump s link target) q = if q = .r7 then link else getReg s q := by
  simp [linkAndJump, getReg_setReg]

/-! ### Device events: what no event changes -/

@[simp] theorem applyEvent_r0 (s : State) (e : DeviceEvent) : (applyEvent s e).r0 = s.r0 := by cases e <;> rfl
@[simp] theorem applyEvent_r1 (s : State) (e : DeviceEvent) : (applyEvent s e).r1 = s.r1 := by cases e <;> rfl
@[simp] theorem applyEvent_r2 (s : State) (e : DeviceEvent) : (applyEvent s e).r2 = s.r2 := by cases e <;> rfl
@[simp] theorem applyEvent_r3 (s : State) (e : DeviceEvent) : (applyEvent s e).r3 = s.r3 := by cases e <;> rfl
@[simp] theorem applyEvent_r4 (s : State) (e : DeviceEvent) : (applyEvent s e).r4 = s.r4 := by cases e <;> rfl
@[simp] theorem applyEvent_r5 (s : State) (e : DeviceEvent) : (applyEvent s e).r5 = s.r5 := by cases e <;> rfl
@[simp] theorem applyEvent_r7 (s : State) (e : DeviceEvent) : (applyEvent s e).r7 = s.r7 := by cases e <;> rfl
@[simp] theorem applyEvent_ssp (s : State) (e : DeviceEvent) : (applyEvent s e).ssp = s.ssp := by cases e <;> rfl
@[simp] theorem applyEvent_usp (s : State) (e : DeviceEvent) : (applyEvent s e).usp = s.usp := by cases e <;> rfl
@[simp] theorem applyEvent_pc (s : State) (e : DeviceEvent) : (applyEvent s e).pc = s.pc := by cases e <;> rfl
@[simp] theorem applyEvent_mode (s : State) (e : DeviceEvent) : (applyEvent s e).mode = s.mode := by cases e <;> rfl
@[simp] theorem applyEvent_ccN (s : State) (e : DeviceEvent) : (applyEvent s e).ccN = s.ccN := by cases e <;> rfl
@[simp] theorem applyEvent_ccZ (s : State) (e : DeviceEvent) : (applyEvent s e).ccZ = s.ccZ := by cases e <;> rfl
@[simp] theorem applyEvent_ccP (s : State) (e : DeviceEvent) : (applyEvent s e).ccP = s.ccP := by cases e <;> rfl
@[simp] theorem applyEvent_mem (s : State) (e : DeviceEvent) : (applyEvent s e).mem = s.mem := by cases e <;> rfl
@[simp] theorem applyEvent_kbIE (s : State) (e : DeviceEvent) : (applyEvent s e).kbIE = s.kbIE := by cases e <;> rfl
@[simp] theorem applyEvent_ddr (s : State) (e : DeviceEvent) : (applyEvent s e).ddr = s.ddr := by cases e <;> rfl
@[simp] theorem applyEvent_clock (s : State) (e : DeviceEvent) : (applyEvent s e).clock = s.clock := by cases e <;> rfl
@[simp] theorem applyEvent_display (s : State) (e : DeviceEvent) : (applyEvent s e).display = s.display := by cases e <;> rfl
@[simp] theorem applyEvent_schedule (s : State) (e : DeviceEvent) : (applyEvent s e).schedule = s.schedule := by cases e <;> rfl
@[simp] theorem foldl_applyEvent_r0 (es : List DeviceEvent) (s : State) : (es.foldl applyEvent s).r0 = s.r0 := by
  induction es generalizing s with
  | nil => rfl
  | cons e es ih => simp [ih]
@[simp] theorem foldl_applyEvent_r1 (es : List DeviceEvent) (s : State) : (es.foldl applyEvent s).r1 = s.r1 := by
  induction es generalizing s with
  | nil => rfl
  | cons e es ih => simp [ih]
@[simp] theorem foldl_applyEvent_r2 (es : List DeviceEvent) (s : State) : (es.foldl applyEvent s).r2 = s.r2 := by
  induction es generalizing s with
  | nil => rfl
  | cons e es ih => simp [ih]
@[simp] theorem foldl_applyEvent_r3 (es : List DeviceEvent) (s : State) : (es.foldl applyEvent s).r3 = s.r3 := by
  induction es generalizing s with
  | nil => rfl
  | cons e es ih => simp [ih]
@[simp] theorem foldl_applyEvent_r4 (es : List DeviceEvent) (s : State) : (es.foldl applyEvent s).r4 = s.r4 := by
  induction es generalizing s with
  | nil => rfl
  | cons e es ih => simp [ih]
@[simp] theorem foldl_applyEvent_r5 (es : List DeviceEvent) (s : State) : (es.foldl applyEvent s).r5 = s.r5 := by
  induction es generalizing s with
  | nil => rfl
  | cons e es ih => simp [ih]
@[simp] theorem foldl_applyEvent_r7 (es : List DeviceEvent) (s : State) : (es.foldl applyEvent s).r7 = s.r7 := by
  induction es generalizing s with
  | nil => rfl
  | cons e es ih => simp [ih]
@[simp] theorem foldl_applyEvent_ssp (es : List DeviceEvent) (s : State) : (es.foldl applyEvent s).ssp = s.ssp := by
  induction es generalizing s with
  | nil => rfl
  | cons e es ih => simp [ih]
@[simp] theorem foldl_applyEvent_usp (es : List DeviceEvent) (s : State) : (es.foldl applyEvent s).usp = s.usp := by
  induction es generalizing s with
  | nil => rfl
  | cons e es ih => simp [ih]
@[simp] theorem foldl_applyEvent_pc (es : List DeviceEvent) (s : State) : (es.foldl applyEvent s).pc = s.pc := by
  induction es generalizing s with
  | nil => rfl
  | cons e es ih => simp [ih]
@[simp] theorem foldl_applyEvent_mode (es : List DeviceEvent) (s : State) : (es.foldl applyEvent s).mode = s.mode := by
  induction es generalizing s with
  | nil => rfl
  | cons e es ih => simp [ih]
@[simp] theorem foldl_applyEvent_ccN (es : List DeviceEvent) (s : State) : (es.foldl applyEvent s).ccN = s.ccN := by
  induction es generalizing s with
  | nil => rfl
  | cons e es ih => simp [ih]
@[simp] theorem foldl_applyEvent_ccZ (es : List DeviceEvent) (s : State) : (es.foldl applyEvent s).ccZ = s.ccZ := by
  induction es generalizing s with
  | nil => rfl
  | cons e es ih => simp [ih]
@[simp] theorem foldl_applyEvent_ccP (es : List DeviceEvent) (s : State) : (es.foldl applyEvent s).ccP = s.ccP := by
  induction es generalizing s with
  | nil => rfl
  | cons e es ih => simp [ih]
@[simp] theorem foldl_applyEvent_mem (es : List DeviceEvent) (s : State) : (es.foldl applyEvent s).mem = s.mem := by
  induction es generalizing s with
  | nil => rfl
  | cons e es ih => simp [ih]
@[simp] theorem foldl_applyEvent_kbIE (es : List DeviceEvent) (s : State) : (es.foldl applyEvent s).kbIE = s.kbIE := by
  induction es generalizing s with
  | nil => rfl
  | cons e es ih => simp [ih]
@[simp] theorem foldl_applyEvent_ddr (es : List DeviceEvent) (s : State) : (es.foldl applyEvent s).ddr = s.ddr := by
  induction es generalizing s with
  | nil => rfl
  | cons e es ih => simp [ih]
@[simp] theorem foldl_applyEvent_clock (es : List DeviceEvent) (s : State) : (es.foldl applyEvent s).clock = s.clock := by
  induction es generalizing s with
  | nil => rfl
  | cons e es ih => simp [ih]
@[simp] theorem foldl_applyEvent_display (es : List DeviceEvent) (s : State) : (es.foldl applyEvent s).display = s.display := by
  induction es generalizing s with
  | nil => rfl
  | cons e es ih => simp [ih]
@[simp] theorem foldl_applyEvent_schedule (es : List DeviceEvent) (s : State) : (es.foldl applyEvent s).schedule = s.schedule := by
  induction es generalizing s with
  | nil => rfl
  | cons e es ih => simp [ih]
@[simp] theorem atBoundary_r0 (s : State) : (atBoundary s).r0 = s.r0 := by
  unfold atBoundary
  split
  · rfl
  · simp
@[simp] theorem atBoundary_r1 (s : State) : (atBoundary s).r1 = s.r1 := by
  unfold atBoundary
  split
  · rfl
  · simp
@[simp] theorem atBoundary_r2 (s : State) : (atBoundary s).r2 = s.r2 := by
  unfold atBoundary
  split
  · rfl
  · simp
@[simp] theorem atBoundary_r3 (s : State) : (atBoundary s).r3 = s.r3 := by
  unfold atBoundary
  split
  · rfl
  · simp
@[simp] theorem atBoundary_r4 (s : State) : (atBoundary s).r4 = s.r4 := by
  unfold atBoundary
  split
  · rfl
  · simp
@[simp] theorem atBoundary_r5 (s : State) : (atBoundary s).r5 = s.r5 := by
  unfold atBoundary
  split
  · rfl
  · simp
@[simp] theorem atBoundary_r7 (s : State) : (atBoundary s).r7 = s.r7 := by
  unfold atBoundary
  split
  · rfl
  · simp
@[simp] theorem atBoundary_ssp (s : State) : (atBoundary s).ssp = s.ssp := by
  unfold atBoundary
  split
  · rfl
  · simp
@[simp] theorem atBoundary_usp (s : State) : (atBoundary s).usp = s.usp := by
  unfold atBoundary
  split
  · rfl
  · simp
@[simp] theorem atBoundary_pc (s : State) : (atBoundary s).pc = s.pc := by
  unfold atBoundary
  split
  · rfl
  · simp
@[simp] theorem atBoundary_mode (s : State) : (atBoundary s).mode = s.mode := by
  unfold atBoundary
  split
  · rfl
  · simp
@[simp] theorem atBoundary_ccN (s : State) : (atBoundary s).ccN = s.ccN := by
  unfold atBoundary
  split
  · rfl
  · simp
@[simp] theorem atBoundary_ccZ (s : State) : (atBoundary s).ccZ = s.ccZ := by
  unfold atBoundary
  split
  · rfl
  · simp
@[simp] theorem atBoundary_ccP (s : State) : (atBoundary s).ccP = s.ccP := by
  unfold atBoundary
  split
  · rfl
  · simp
@[simp] theorem atBoundary_mem (s : State) : (atBoundary s).mem = s.mem := by
  unfold atBoundary
  split
  · rfl
  · simp
@[simp] theorem atBoundary_kbIE (s : State) : (atBoundary s).kbIE = s.kbIE := by
  unfold atBoundary
  split
  · rfl
  · simp
@[simp] theorem atBoundary_ddr (s : State) : (atBoundary s).ddr = s.ddr := by
  unfold atBoundary
  split
  · rfl
  · simp
@[simp] theorem atBoundary_clock (s : State) : (atBoundary s).clock = s.clock := by
  unfold atBoundary
  split
  · rfl
  · simp
@[simp] theorem atBoundary_display (s : State) : (atBoundary s).display = s.display := by
  unfold atBoundary
  split
  · rfl
  · simp

/-- Device events leave every register as it was. -/
@[simp] theorem getReg_atBoundary (s : State) (r : Reg) : getReg (atBoundary s) r = getReg s r := by
  cases r <;> simp [getReg]

/-- A boundary takes the first list of events off the schedule. -/
theorem atBoundary_schedule (s : State) : (atBoundary s).schedule = s.schedule.tail := by
  unfold atBoundary; split <;> simp_all

/-- With no device event at the boundary only the schedule moves on. -/
theorem atBoundary_of_quiet (s : State) (h : s.schedule.head? = some [] ∨ s.schedule = []) :
    atBoundary s = { s with schedule := s.schedule.tail } := by
  unfold atBoundary
  split
  · next he => cases s; simp_all
  · next now later he => simp_all

/-! ### pc + 2 -/

@[simp] theorem advancePC_r0 (s : State) : (advancePC s).r0 = s.r0 := rfl
@[simp] theorem advancePC_r1 (s : State) : (advancePC s).r1 = s.r1 := rfl
@[simp] theorem advancePC_r2 (s : State) : (advancePC s).r2 = s.r2 := rfl
@[simp] theorem advancePC_r3 (s : State) : (advancePC s).r3 = s.r3 := rfl
@[simp] theorem advancePC_r4 (s : State) : (advancePC s).r4 = s.r4 := rfl
@[simp] theorem advancePC_r5 (s : State) : (advancePC s).r5 = s.r5 := rfl
@[simp] theorem advancePC_r7 (s : State) : (advancePC s).r7 = s.r7 := rfl
@[simp] theorem advancePC_ssp (s : State) : (advancePC s).ssp = s.ssp := rfl
@[simp] theorem advancePC_usp (s : State) : (advancePC s).usp = s.usp := rfl
@[simp] theorem advancePC_pc (s : State) : (advancePC s).pc = s.pc + 2#16 := rfl
@[simp] theorem advancePC_mode (s : State) : (advancePC s).mode = s.mode := rfl
@[simp] theorem advancePC_ccN (s : State) : (advancePC s).ccN = s.ccN := rfl
@[simp] theorem advancePC_ccZ (s : State) : (advancePC s).ccZ = s.ccZ := rfl
@[simp] theorem advancePC_ccP (s : State) : (advancePC s).ccP = s.ccP := rfl
@[simp] theorem advancePC_mem (s : State) : (advancePC s).mem = s.mem := rfl
@[simp] theorem advancePC_kbReady (s : State) : (advancePC s).kbReady = s.kbReady := rfl
@[simp] theorem advancePC_kbIE (s : State) : (advancePC s).kbIE = s.kbIE := rfl
@[simp] theorem advancePC_kbdr (s : State) : (advancePC s).kbdr = s.kbdr := rfl
@[simp] theorem advancePC_dsrReady (s : State) : (advancePC s).dsrReady = s.dsrReady := rfl
@[simp] theorem advancePC_ddr (s : State) : (advancePC s).ddr = s.ddr := rfl
@[simp] theorem advancePC_clock (s : State) : (advancePC s).clock = s.clock := rfl
@[simp] theorem advancePC_display (s : State) : (advancePC s).display = s.display := rfl
@[simp] theorem advancePC_schedule (s : State) : (advancePC s).schedule = s.schedule := rfl
@[simp] theorem getReg_advancePC (s : State) (r : Reg) : getReg (advancePC s) r = getReg s r := by cases r <;> rfl

end Sys2Proof.Machine
end

