-- ==== Sys2Proof/Laws/Ops.lean ====
section
/-!
SUPPORT. For each shared operation, once, everything it can do when it answers a next state; and the frames of Safety.lean for the named
updates.
-/

namespace Sys2Proof.Machine

/-! ### andThen and faultIf -/

@[simp] theorem andThen_next {α β : Type} (a : α) (f : α → Outcome β) : andThen (.next a) f = f a := rfl
@[simp] theorem andThen_fault {α β : Type} (e : Fault) (f : α → Outcome β) : andThen (.fault e) f = .fault e := rfl
@[simp] theorem andThen_refused {α β : Type} (e : Refusal) (f : α → Outcome β) : andThen (.refused e) f = .refused e := rfl

theorem andThen_eq_next {α β : Type} {x : Outcome α} {f : α → Outcome β} {b : β} :
    andThen x f = .next b ↔ ∃ a, x = .next a ∧ f a = .next b := by
  cases x <;> simp [andThen]

@[simp] theorem faultIf_false {α : Type} (e : Fault) (x : Outcome α) : faultIf false e x = x := rfl
@[simp] theorem faultIf_true {α : Type} (e : Fault) (x : Outcome α) : faultIf true e x = .fault e := rfl

theorem faultIf_eq_next {α : Type} {c : Bool} {e : Fault} {x : Outcome α} {a : α} :
    faultIf c e x = .next a ↔ c = false ∧ x = .next a := by
  cases c <;> simp [faultIf]

/-! ### Memory and device access -/

theorem readByte_eq_next {s : State} {a : Word} {b : Byte} :
    readByte s a = .next b ↔ inDeviceRegion a = false ∧ b = s.mem.get a.toNat := by
  unfold readByte
  split
  · next h => simp [h]
  · next h => simp only [Host.Outcome.next.injEq, h, true_and]; exact eq_comm

theorem writeByte_eq_next {s t : State} {a : Word} {v : Byte} :
    writeByte s a v = .next t ↔ inDeviceRegion a = false ∧ t = s.withMem (s.mem.set a.toNat v) := by
  unfold writeByte
  split
  · next h => simp [h]
  · next h => simp only [Host.Outcome.next.injEq, h, true_and]; exact eq_comm

theorem readMemWord_eq_next {s : State} {a v : Word} :
    readMemWord s a = .next v ↔ inDeviceRegion a = false ∧ v = s.mem.getWord a := by
  unfold readMemWord
  split
  · next h => simp [h]
  · next h => simp only [Host.Outcome.next.injEq, h, true_and]; exact eq_comm

theorem writeMemWord_eq_next {s t : State} {a v : Word} :
    writeMemWord s a v = .next t ↔ inDeviceRegion a = false ∧ t = s.withMem (s.mem.setWord a v) := by
  unfold writeMemWord
  split
  · next h => simp [h]
  · next h => simp only [Host.Outcome.next.injEq, h, true_and]; exact eq_comm

/-- A load from a device register returns its word; only a load of KBDR changes the state, and then only KBSR[15]
(60_exceptions.md rule R180). -/
theorem readDevice_eq_next {d : DeviceReg} {s t : State} {v : Word} :
    readDevice d s = .next (v, t) ↔
      (d = .kbsr ∧ v = s.kbsrWord ∧ t = s) ∨ (d = .kbdr ∧ v = s.kbdrWord ∧ t = s.withKbReady false) ∨
        (d = .dsr ∧ v = s.dsrWord ∧ t = s) ∨ (d = .mcr ∧ v = s.mcrWord ∧ t = s) := by
  cases d <;> simp only [readDevice, Host.Outcome.next.injEq, Prod.mk.injEq, reduceCtorEq, false_and, true_and, or_false, false_or]
  all_goals exact and_congr eq_comm eq_comm

/-- A store to a device register changes IE, or outputs a character, or sets the clock enable (60_exceptions.md rules R180, R182, R184). -/
theorem writeDevice_eq_next {d : DeviceReg} {v : Word} {s t : State} :
    writeDevice d v s = .next t ↔
      (d = .kbsr ∧ t = s.withKbIE (v.getLsbD 14)) ∨
        (d = .ddr ∧ s.dsrReady = true ∧ t = s.displayChar (v.extractLsb' 0 8)) ∨
          (d = .mcr ∧ t = s.withClock (v.getLsbD 15)) := by
  cases d <;> simp only [writeDevice, Host.Outcome.next.injEq, reduceCtorEq, false_and, true_and, or_false, false_or]
  · exact eq_comm
  · split
    · next h => simp only [Host.Outcome.next.injEq, h, true_and]; exact eq_comm
    · next h => simp [h]
  · exact eq_comm

theorem deviceAt_eq_some {a : Word} {d : DeviceReg} : deviceAt a = some d ↔ a = d.address := by
  unfold deviceAt
  constructor
  · intro h
    repeat' split at h
    all_goals first | (cases h; assumption) | cases h
  · intro h
    subst h
    cases d <;> rfl

@[simp] theorem deviceAt_address (d : DeviceReg) : deviceAt d.address = some d := deviceAt_eq_some.2 rfl

/-- Every device register lies in the device region (20_memory.md rule R46). -/
@[simp] theorem inDeviceRegion_address (d : DeviceReg) : inDeviceRegion d.address = true := by cases d <;> decide

/-- What LDW's access can do: read memory, or read a device register. -/
theorem loadWord_eq_next {s t : State} {a v : Word} :
    loadWord s a = .next (v, t) ↔
      (inDeviceRegion a = false ∧ v = s.mem.getWord a ∧ t = s) ∨
        (∃ d, a = d.address ∧ readDevice d s = .next (v, t)) := by
  unfold loadWord
  split
  · next h =>
    constructor
    · intro hl
      split at hl
      · next d hd => exact .inr ⟨d, deviceAt_eq_some.1 hd, hl⟩
      · cases hl
    · rintro (⟨hf, -⟩ | ⟨d, rfl, hd⟩)
      · simp_all
      · simpa using hd
  · next h =>
    simp only [Host.Outcome.next.injEq, Prod.mk.injEq]
    constructor
    · rintro ⟨rfl, rfl⟩; exact .inl ⟨by simpa using h, rfl, rfl⟩
    · rintro (⟨-, rfl, rfl⟩ | ⟨d, rfl, -⟩)
      · exact ⟨rfl, rfl⟩
      · simp at h

/-- What STW's access can do: write memory, or write a device register. -/
theorem storeWord_eq_next {s t : State} {a v : Word} :
    storeWord s a v = .next t ↔
      (inDeviceRegion a = false ∧ t = s.withMem (s.mem.setWord a v)) ∨
        (∃ d, a = d.address ∧ writeDevice d v s = .next t) := by
  unfold storeWord
  split
  · next h =>
    constructor
    · intro hl
      split at hl
      · next d hd => exact .inr ⟨d, deviceAt_eq_some.1 hd, hl⟩
      · cases hl
    · rintro (⟨hf, -⟩ | ⟨d, rfl, hd⟩)
      · simp_all
      · simpa using hd
  · next h =>
    simp only [Host.Outcome.next.injEq]
    constructor
    · rintro rfl; exact .inl ⟨by simpa using h, rfl⟩
    · rintro (⟨-, rfl⟩ | ⟨d, rfl, -⟩)
      · rfl
      · simp at h

/-- A load leaves memory as it was. -/
theorem loadWord_mem {s t : State} {a v : Word} (h : loadWord s a = .next (v, t)) : t.mem = s.mem := by
  rcases loadWord_eq_next.1 h with ⟨-, -, rfl⟩ | ⟨d, -, hd⟩
  · rfl
  · rcases readDevice_eq_next.1 hd with ⟨-, -, rfl⟩ | ⟨-, -, rfl⟩ | ⟨-, -, rfl⟩ | ⟨-, -, rfl⟩ <;> rfl

/-- A load leaves the processor's registers and pc as they were; the writing of DR comes after it. -/
theorem loadWord_keeps {s t : State} {a v : Word} (h : loadWord s a = .next (v, t)) :
    t = s ∨ t = s.withKbReady false := by
  rcases loadWord_eq_next.1 h with ⟨-, -, rfl⟩ | ⟨d, -, hd⟩
  · exact .inl rfl
  · rcases readDevice_eq_next.1 hd with ⟨-, -, rfl⟩ | ⟨-, -, rfl⟩ | ⟨-, -, rfl⟩ | ⟨-, -, rfl⟩ <;> simp

/-! ### The two words of an aligned access -/

theorem isOdd_eq (a : Word) : isOdd a = decide (a.toNat % 2 = 1) := by
  simp [isOdd, BitVec.getLsbD, Nat.testBit_zero]

theorem isOdd_eq_false_iff (a : Word) : isOdd a = false ↔ a.toNat % 2 = 0 := by
  rw [isOdd_eq]; simp

/-- The second byte of an aligned word of ordinary memory is ordinary memory too. -/
theorem succ_ordinary_of_even {a : Word} (h : inDeviceRegion a = false) (ho : isOdd a = false) : a.toNat + 1 < 0xFE00 := by
  rw [isOdd_eq_false_iff] at ho
  simp only [inDeviceRegion, decide_eq_false_iff_not, not_le] at h
  omega

/-! ### Fetch -/

/-- What the fetch can do: read an even address of ordinary memory and decode it. -/
theorem fetchInstr_eq_next {s : State} {i : Instr} :
    fetchInstr s = .next i ↔
      inDeviceRegion s.pc = false ∧ isOdd s.pc = false ∧ decodeWord Config.sbzPolicy (s.mem.getWord s.pc) = .ok i := by
  unfold fetchInstr
  rw [andThen_eq_next]
  simp only [readMemWord_eq_next, faultIf_eq_next]
  constructor
  · rintro ⟨w, ⟨hr, rfl⟩, ho, hd⟩
    refine ⟨hr, ho, ?_⟩
    split at hd <;> simp_all
  · rintro ⟨hr, ho, hd⟩
    exact ⟨_, ⟨hr, rfl⟩, ho, by rw [hd]⟩

/-! ### Interrupt initiation and return -/

/-- The state after interrupt initiation, where it happens (60_exceptions.md rule R172). -/
def afterInitiation (intv : BitVec 8) (s : State) : State :=
  ((((s.withMem ((s.mem.setWord (s.ssp - 2#16) s.psr).setWord (s.ssp - 4#16) s.pc)).withSSP (s.ssp - 4#16)).withMode .supervisor).withPC
    (s.mem.getWord (interruptEntry intv)))

/-- What interrupt initiation can do. -/
theorem initiateInterrupt_eq_next {intv : BitVec 8} {s t : State} :
    initiateInterrupt intv s = .next t ↔
      isOdd s.ssp = false ∧ inDeviceRegion (interruptEntry intv) = false ∧
        isOdd (s.mem.getWord (interruptEntry intv)) = false ∧
          inDeviceRegion (s.ssp - 2#16) = false ∧ inDeviceRegion (s.ssp - 4#16) = false ∧ t = afterInitiation intv s := by
  unfold initiateInterrupt
  simp only [faultIf_eq_next, andThen_eq_next, readMemWord_eq_next, writeMemWord_eq_next]
  constructor
  · rintro ⟨h1, _, ⟨h2, rfl⟩, h3, s1, ⟨h4, rfl⟩, s2, ⟨h5, rfl⟩, he⟩
    simp only [Host.Outcome.next.injEq] at he
    exact ⟨h1, h2, h3, h4, h5, he.symm⟩
  · rintro ⟨h1, h2, h3, h4, h5, rfl⟩
    exact ⟨h1, _, ⟨h2, rfl⟩, h3, _, ⟨h4, rfl⟩, _, ⟨h5, rfl⟩, rfl⟩

/-- What the return from an interrupt can do. -/
theorem returnFromInterrupt_eq_next {s t : State} :
    returnFromInterrupt s = .next t ↔
      s.mode = .supervisor ∧ isOdd s.ssp = false ∧ inDeviceRegion s.ssp = false ∧ inDeviceRegion (s.ssp + 2#16) = false ∧
        isOdd (s.mem.getWord s.ssp) = false ∧
          t = ((s.withPC (s.mem.getWord s.ssp)).withSSP (s.ssp + 4#16)).withPSR (s.mem.getWord (s.ssp + 2#16)) := by
  unfold returnFromInterrupt
  simp only [faultIf_eq_next, andThen_eq_next, readMemWord_eq_next]
  have hm : s.mode.bit = false ↔ s.mode = .supervisor := by cases s.mode <;> simp [Mode.bit]
  rw [hm]
  constructor
  · rintro ⟨h0, h1, _, ⟨h2, rfl⟩, _, ⟨h3, rfl⟩, h4, he⟩
    simp only [Host.Outcome.next.injEq] at he
    exact ⟨h0, h1, h2, h3, h4, he.symm⟩
  · rintro ⟨h0, h1, h2, h3, h4, rfl⟩
    exact ⟨h0, h1, _, ⟨h2, rfl⟩, _, ⟨h3, rfl⟩, h4, rfl⟩

/-! ### The condition codes -/

/-- `setcc` says whether the value is negative, zero or positive (00_scope.md rule R11). -/
theorem ccFrom_setcc (v : Word) (s : State) : CCFrom (setcc v s) v := by
  have h1 : v.msb = true ↔ v.toInt < 0 := by simp [BitVec.msb_eq_toInt]
  have h2 : v = 0#16 ↔ v.toInt = 0 := by
    rw [← BitVec.toInt_inj]; simp
  have h3 : v.msb = false ↔ 0 ≤ v.toInt := by
    rw [← Bool.not_eq_true, h1]; omega
  refine ⟨by simpa using h1, by simpa using h2, ?_⟩
  simp only [setcc_ccP, Bool.and_eq_true, Bool.not_eq_true', bne_iff_ne, ne_eq, h3, h2]
  omega

theorem oneHot_setcc (v : Word) (s : State) : OneHotCC (setcc v s) := by
  simp only [OneHotCC, setcc_ccN, setcc_ccZ, setcc_ccP]
  by_cases hz : v = 0#16
  · subst hz; simp
  · cases v.msb <;> simp [hz]

/-! ### Frames of the named updates -/

theorem sameMemory_of_mem_eq {s t : State} (h : t.mem = s.mem) : SameMemory s t := fun a => by rw [h]

/-- The frame of an operate result (40_operate.md rule R90). -/
theorem writesResult_writeResult (s : State) (dr : Reg) (v : Word) : WritesResult s (writeResult dr v s) dr v where
  result := by simp
  regs :=
    { regs := fun r hr => by simp_all
      idle := by
        unfold idleSP
        rw [writeResult_mode]
        cases hm : s.mode
        · exact setReg_usp_of_supervisor s dr v hm
        · exact setReg_ssp_of_user s dr v hm
      mode := by simp }
  cc := ccFrom_setcc v _
  pc := by simp
  mem := sameMemory_of_mem_eq (by simp)
  dev := by constructor <;> simp

/-- The frame of a jump. -/
theorem jumpsTo_withPC (s : State) (target : Word) : JumpsTo s (s.withPC target) target where
  pc := rfl
  regs := { regs := fun r _ => by simp, idle := rfl, mode := rfl }
  cc := ⟨rfl, rfl, rfl⟩
  mem := fun _ => rfl
  dev := by constructor <;> rfl

/-- The frame of a call. -/
theorem callsTo_linkAndJump (s : State) (target : Word) : CallsTo s (linkAndJump s s.pc target) target where
  pc := rfl
  link := by simp
  regs := { regs := fun r hr => by simp_all, idle := rfl, mode := by simp }
  cc := ⟨by simp, by simp, by simp⟩
  mem := sameMemory_of_mem_eq (by simp)
  dev := by constructor <;> simp

end Sys2Proof.Machine
end

