-- ==== Sys2Proof/Laws/Operands.lean ====
section
/-!
SUPPORT. The operand forms as arithmetic, the terms of Safety.lean for words of memory, and the parity of the addresses the machine computes.
-/

namespace Sys2Proof.Machine

/-! ### Extension and shift as arithmetic -/

/-- Sign extension keeps the signed value (00_scope.md rule R7). -/
theorem sext_eq_ofInt {n : Nat} (v : BitVec n) : sext v = BitVec.ofInt 16 v.toInt := rfl

/-- The value of a left shift by one (00_scope.md rule R9). -/
theorem toNat_lshfWord_one (v : Word) : (lshfWord v 1).toNat = 2 * v.toNat % 2 ^ 16 := by
  simp [lshfWord, Nat.shiftLeft_eq, Nat.mul_comm]

/-- A sign-extended field shifted left by one is twice its signed value modulo 2^16. -/
theorem lshfWord_sext_one {n : Nat} (v : BitVec n) : lshfWord (sext v) 1 = BitVec.ofInt 16 (2 * v.toInt) := by
  apply BitVec.eq_of_toNat_eq
  rw [toNat_lshfWord_one, sext_eq_ofInt, BitVec.toNat_ofInt, BitVec.toNat_ofInt]
  omega

theorem isOdd_lshfWord_one (v : Word) : isOdd (lshfWord v 1) = false := by
  rw [isOdd_eq_false_iff, toNat_lshfWord_one]; omega

/-- A word offset does not change the parity of the base (20_memory.md rule R45). -/
theorem isOdd_wordAddress (base : Word) (offset6 : BitVec 6) : isOdd (wordAddress base offset6) = isOdd base := by
  simp only [isOdd_eq, wordAddress, BitVec.toNat_add, toNat_lshfWord_one]
  congr 2; omega

theorem pcRelative9_eq (pc : Word) (offset9 : BitVec 9) : pcRelative9 pc offset9 = pc + BitVec.ofInt 16 (2 * offset9.toInt) := by
  rw [pcRelative9, lshfWord_sext_one]

theorem pcRelative11_eq (pc : Word) (offset11 : BitVec 11) : pcRelative11 pc offset11 = pc + BitVec.ofInt 16 (2 * offset11.toInt) := by
  rw [pcRelative11, lshfWord_sext_one]

/-- The trap vector table entry is at twice the vector (43_system.md rule R142). -/
theorem trapEntry_eq (v : BitVec 8) : trapEntry v = BitVec.ofNat 16 (2 * v.toNat) := by revert v; decide

/-- The trap vector table lies in ordinary memory (20_memory.md rule R46). -/
@[simp] theorem inDeviceRegion_trapEntry (v : BitVec 8) : inDeviceRegion (trapEntry v) = false := by revert v; decide

@[simp] theorem interruptEntry_keyboardVector : interruptEntry keyboardVector = 0x0280#16 := by decide

/-- Adding an even number keeps the parity of a word. -/
theorem isOdd_add_of_even {a b : Word} (h : isOdd b = false) : isOdd (a + b) = isOdd a := by
  rw [isOdd_eq_false_iff] at h
  simp only [isOdd_eq, BitVec.toNat_add]
  congr 2; omega

/-- Subtracting an even number keeps the parity of a word. -/
theorem isOdd_sub_of_even {a b : Word} (h : isOdd b = false) : isOdd (a - b) = isOdd a := by
  rw [isOdd_eq_false_iff] at h
  simp only [isOdd_eq, BitVec.toNat_sub]
  congr 2; omega

/-! ### Bytes and words of memory -/

/-- The byte STB stores (41_data_movement.md rule R103). -/
theorem lowByte_eq (v : Word) : lowByte v = BitVec.ofNat 8 v.toNat := rfl

/-- The high byte of a word, as STW stores it at the higher address (20_memory.md rule R41). -/
theorem highByte_eq (v : Word) : v.extractLsb' 8 8 = BitVec.ofNat 8 (v.toNat / 256) := by
  apply BitVec.eq_of_toNat_eq; simp [Nat.shiftRight_eq_div_pow]

/-- The word the machine reads is the one Safety.lean computes from the two bytes (20_memory.md rule R41). -/
theorem Memory.getWord_eq_wordAt (m : Memory) (a : Word) : m.getWord a = wordAt m a := by
  apply BitVec.eq_of_toNat_eq
  have h := toNat_append_add (m.get (a.toNat + 1)) (m.get a.toNat)
  have h1 := (m.get a.toNat).isLt
  have h2 := (m.get (a.toNat + 1)).isLt
  show (m.get (a.toNat + 1) ++ m.get a.toNat).toNat = _
  rw [h, wordAt, BitVec.toNat_ofNat]
  omega

/-- A stored word reads back. -/
theorem wordAt_setWord {m : Memory} (h : m.wf = true) (a v : Word) : wordAt (m.setWord a v) a = v := by
  rw [← Memory.getWord_eq_wordAt]
  show wordOfBytes ((m.setWord a v).get a.toNat) ((m.setWord a v).get (a.toNat + 1)) = v
  rw [Memory.get_setWord h, Memory.get_setWord h]
  simpa using wordOfBytes_bytes v

/-- A stored word leaves a word that shares no byte with it. -/
theorem wordAt_setWord_of_disjoint {m : Memory} (h : m.wf = true) {a b : Word} (v : Word)
    (hd : a.toNat + 1 < b.toNat ∨ b.toNat + 1 < a.toNat) : wordAt (m.setWord a v) b = wordAt m b := by
  unfold wordAt
  rw [Memory.get_setWord h, Memory.get_setWord h, if_neg (by omega), if_neg (by omega), if_neg (by omega), if_neg (by omega)]

/-! ### The two words of an interrupt frame -/

/-- Where both words of the frame lie in ordinary memory, the PSR's word is right above the PC's (60_exceptions.md rule R172). -/
theorem toNat_frame {ssp : Word} (ho : isOdd ssp = false) (h2 : inDeviceRegion (ssp - 2#16) = false)
    (h4 : inDeviceRegion (ssp - 4#16) = false) : (ssp - 2#16).toNat = (ssp - 4#16).toNat + 2 := by
  rw [isOdd_eq_false_iff] at ho
  simp only [inDeviceRegion, decide_eq_false_iff_not, not_le, BitVec.toNat_sub, BitVec.toNat_ofNat] at h2 h4 ⊢
  omega

/-- The four defined bits of the PSR word (10_state.md rules R26, R27). -/
theorem psr_bits (s : State) :
    s.psr.getLsbD 15 = s.mode.bit ∧ s.psr.getLsbD 2 = s.ccN ∧ s.psr.getLsbD 1 = s.ccZ ∧ s.psr.getLsbD 0 = s.ccP := by
  unfold State.psr
  cases s.mode <;> cases s.ccN <;> cases s.ccZ <;> cases s.ccP <;> decide

@[simp] theorem Mode.ofBit_bit (m : Mode) : Mode.ofBit m.bit = m := by cases m <;> rfl

/-! ### Frames of stores -/

/-- A write to memory changes nothing of the processor. -/
theorem sameProcessor_withMem (s : State) (m : Memory) : SameProcessor s (s.withMem m) where
  regs := { regs := fun r _ => by simp, idle := rfl, mode := rfl }
  cc := ⟨rfl, rfl, rfl⟩
  pc := rfl

/-- A write to memory changes no device. -/
theorem sameDevices_withMem (s : State) (m : Memory) : SameDevices s (s.withMem m) := by constructor <;> rfl

/-- A byte store changes one byte. -/
theorem sameMemoryOutside_set {s : State} (h : s.mem.wf = true) (k : Nat) (v : Byte) :
    SameMemoryOutside s (s.withMem (s.mem.set k v)) [k] := by
  intro a ha
  rw [State.withMem_mem, Memory.get_set h, if_neg (by simpa using ha)]

/-- A word store changes two bytes. -/
theorem sameMemoryOutside_setWord {s : State} (h : s.mem.wf = true) (a v : Word) :
    SameMemoryOutside s (s.withMem (s.mem.setWord a v)) [a.toNat, a.toNat + 1] := by
  intro b hb
  simp only [List.mem_cons, List.not_mem_nil, or_false, not_or] at hb
  rw [State.withMem_mem, Memory.get_setWord h, if_neg hb.2, if_neg hb.1]

end Sys2Proof.Machine
end

