-- ==== Sys2Proof/Laws/PerInstr.lean ====
section
/-!
SUPPORT. One lemma for each instruction: the four opcode bits of its encoding are those of its family (30_encoding.md rule R69).
-/

namespace Sys2Proof

/-- The opcode of an instruction, bits [15:12] (30_encoding.md rule R69). -/
def opcodeOf : Instr → BitVec 4
  | .br _ _ _ _ => 0#4
  | .addReg _ _ _ | .addImm _ _ _ => 1#4
  | .ldb _ _ _ => 2#4
  | .stb _ _ _ => 3#4
  | .jsr _ | .jsrr _ => 4#4
  | .andReg _ _ _ | .andImm _ _ _ => 5#4
  | .ldw _ _ _ => 6#4
  | .stw _ _ _ => 7#4
  | .rti => 8#4
  | .xorReg _ _ _ | .xorImm _ _ _ | .notReg _ _ => 9#4
  | .reserved1010 _ => 10#4
  | .reserved1011 _ => 11#4
  | .jmp _ | .ret => 12#4
  | .lshf _ _ _ | .rshfl _ _ _ | .rshfa _ _ _ => 13#4
  | .lea _ _ => 14#4
  | .trap _ => 15#4

/-- The encoding of the instruction has its opcode in bits [15:12]. -/
def Laws.EncodeOpcode.Statement (i : Instr) : Prop := field (encode i) 12 4 = opcodeOf i

/-! The opcode of each format, and then of each instruction. -/

theorem field_opcode_formatR3 (op : BitVec 4) (dr sr1 sr2 : Reg) : field (formatR3 op dr sr1 sr2) 12 4 = op :=
  field_eq_of_toNat (by rw [toNat_formatR3]; omega)

theorem field_opcode_formatRI (op : BitVec 4) (dr sr1 : Reg) (v : BitVec 5) : field (formatRI op dr sr1 v) 12 4 = op :=
  field_eq_of_toNat (by rw [toNat_formatRI]; omega)

theorem field_opcode_formatM (op : BitVec 4) (r base : Reg) (v : BitVec 6) : field (formatM op r base v) 12 4 = op :=
  field_eq_of_toNat (by rw [toNat_formatM]; omega)

theorem field_opcode_formatSH (ad : BitVec 2) (dr sr : Reg) (v : BitVec 4) : field (formatSH ad dr sr v) 12 4 = 0b1101#4 :=
  field_eq_of_toNat (by rw [toNat_formatSH]; simp only [BitVec.toNat_ofNat]; omega)

theorem Laws.EncodeOpcode.addReg (dr sr1 sr2 : Reg) : Laws.EncodeOpcode.Statement (.addReg dr sr1 sr2) :=
  field_opcode_formatR3 _ _ _ _

theorem Laws.EncodeOpcode.addImm (dr sr1 : Reg) (imm5 : BitVec 5) : Laws.EncodeOpcode.Statement (.addImm dr sr1 imm5) :=
  field_opcode_formatRI _ _ _ _

theorem Laws.EncodeOpcode.andReg (dr sr1 sr2 : Reg) : Laws.EncodeOpcode.Statement (.andReg dr sr1 sr2) :=
  field_opcode_formatR3 _ _ _ _

theorem Laws.EncodeOpcode.andImm (dr sr1 : Reg) (imm5 : BitVec 5) : Laws.EncodeOpcode.Statement (.andImm dr sr1 imm5) :=
  field_opcode_formatRI _ _ _ _

theorem Laws.EncodeOpcode.br (n z p : Bool) (off : BitVec 9) : Laws.EncodeOpcode.Statement (.br n z p off) :=
  field_eq_of_toNat (by rw [toNat_encode_br]; cases n <;> cases z <;> cases p <;> simp only [opcodeOf, BitVec.toNat_ofNat, Bool.toNat_true, Bool.toNat_false] <;> omega)

theorem Laws.EncodeOpcode.ret : Laws.EncodeOpcode.Statement (.ret) :=
  rfl

theorem Laws.EncodeOpcode.jmp (base : Reg) : Laws.EncodeOpcode.Statement (.jmp base) :=
  by cases base <;> rfl

theorem Laws.EncodeOpcode.jsr (off : BitVec 11) : Laws.EncodeOpcode.Statement (.jsr off) :=
  field_eq_of_toNat (by rw [toNat_encode_jsr]; simp only [opcodeOf, BitVec.toNat_ofNat]; omega)

theorem Laws.EncodeOpcode.jsrr (base : Reg) : Laws.EncodeOpcode.Statement (.jsrr base) :=
  by cases base <;> rfl

theorem Laws.EncodeOpcode.ldb (dr base : Reg) (off : BitVec 6) : Laws.EncodeOpcode.Statement (.ldb dr base off) :=
  field_opcode_formatM _ _ _ _

theorem Laws.EncodeOpcode.ldw (dr base : Reg) (off : BitVec 6) : Laws.EncodeOpcode.Statement (.ldw dr base off) :=
  field_opcode_formatM _ _ _ _

theorem Laws.EncodeOpcode.lea (dr : Reg) (off : BitVec 9) : Laws.EncodeOpcode.Statement (.lea dr off) :=
  field_eq_of_toNat (by rw [toNat_encode_lea]; simp only [opcodeOf, BitVec.toNat_ofNat]; omega)

theorem Laws.EncodeOpcode.notReg (dr sr : Reg) : Laws.EncodeOpcode.Statement (.notReg dr sr) :=
  field_opcode_formatRI _ _ _ _

theorem Laws.EncodeOpcode.rti : Laws.EncodeOpcode.Statement (.rti) :=
  rfl

theorem Laws.EncodeOpcode.lshf (dr sr : Reg) (amt : BitVec 4) : Laws.EncodeOpcode.Statement (.lshf dr sr amt) :=
  field_opcode_formatSH _ _ _ _

theorem Laws.EncodeOpcode.rshfl (dr sr : Reg) (amt : BitVec 4) : Laws.EncodeOpcode.Statement (.rshfl dr sr amt) :=
  field_opcode_formatSH _ _ _ _

theorem Laws.EncodeOpcode.rshfa (dr sr : Reg) (amt : BitVec 4) : Laws.EncodeOpcode.Statement (.rshfa dr sr amt) :=
  field_opcode_formatSH _ _ _ _

theorem Laws.EncodeOpcode.stb (sr base : Reg) (off : BitVec 6) : Laws.EncodeOpcode.Statement (.stb sr base off) :=
  field_opcode_formatM _ _ _ _

theorem Laws.EncodeOpcode.stw (sr base : Reg) (off : BitVec 6) : Laws.EncodeOpcode.Statement (.stw sr base off) :=
  field_opcode_formatM _ _ _ _

theorem Laws.EncodeOpcode.trap (v : BitVec 8) : Laws.EncodeOpcode.Statement (.trap v) :=
  field_eq_of_toNat (by rw [toNat_encode_trap]; simp only [opcodeOf, BitVec.toNat_ofNat]; omega)

theorem Laws.EncodeOpcode.xorReg (dr sr1 sr2 : Reg) : Laws.EncodeOpcode.Statement (.xorReg dr sr1 sr2) :=
  field_opcode_formatR3 _ _ _ _

theorem Laws.EncodeOpcode.xorImm (dr sr1 : Reg) (imm5 : BitVec 5) : Laws.EncodeOpcode.Statement (.xorImm dr sr1 imm5) :=
  field_opcode_formatRI _ _ _ _

theorem Laws.EncodeOpcode.reserved1010 (low : BitVec 12) : Laws.EncodeOpcode.Statement (.reserved1010 low) :=
  field_eq_of_toNat (by rw [toNat_encode_reserved1010]; simp only [opcodeOf, BitVec.toNat_ofNat]; omega)

theorem Laws.EncodeOpcode.reserved1011 (low : BitVec 12) : Laws.EncodeOpcode.Statement (.reserved1011 low) :=
  field_eq_of_toNat (by rw [toNat_encode_reserved1011]; simp only [opcodeOf, BitVec.toNat_ofNat]; omega)

end Sys2Proof
end

