-- ==== Sys2Proof/Laws/Step.lean ====
section
/-!
SUPPORT. What an instruction and what a step can do, said once: every invariant is proved from these two case lemmas.
-/

namespace Sys2Proof.Machine

/-- What `exec` can do when it answers a next state, one case for each shape of change. -/
theorem exec_cases {i : Instr} {s t : State} (h : exec i s = .next t) :
    (i.setsCC = true ∧ ∃ dr v, t = writeResult dr v s) ∨
    (∃ dr base off, i = .ldw dr base off ∧ wordAddress (getReg s base) off = DeviceReg.kbdr.address ∧
      t = writeResult dr s.kbdrWord (s.withKbReady false)) ∨
    (∃ sr base off, i = .stb sr base off ∧ inDeviceRegion (byteAddress (getReg s base) off) = false ∧
      t = s.withMem (s.mem.set (byteAddress (getReg s base) off).toNat (lowByte (getReg s sr)))) ∨
    (∃ sr base off, i = .stw sr base off ∧ isOdd (getReg s base) = false ∧
      inDeviceRegion (wordAddress (getReg s base) off) = false ∧
      t = s.withMem (s.mem.setWord (wordAddress (getReg s base) off) (getReg s sr))) ∨
    (∃ sr base off d, i = .stw sr base off ∧ wordAddress (getReg s base) off = DeviceReg.address d ∧
      writeDevice d (getReg s sr) s = .next t) ∨
    (∃ n z p off, i = .br n z p off ∧ t = if branchTaken n z p s then s.withPC (pcRelative9 s.pc off) else s) ∨
    (∃ base, (i = .jmp base ∨ (i = .ret ∧ base = .r7)) ∧ isOdd (getReg s base) = false ∧ t = s.withPC (getReg s base)) ∨
    (∃ off, i = .jsr off ∧ t = linkAndJump s s.pc (pcRelative11 s.pc off)) ∨
    (∃ base, i = .jsrr base ∧ isOdd (jsrrTarget Config.jsrrOrder s s.pc base) = false ∧
      t = linkAndJump s s.pc (jsrrTarget Config.jsrrOrder s s.pc base)) ∨
    (∃ v, i = .trap v ∧ isOdd (s.mem.getWord (trapEntry v)) = false ∧
      t = linkAndJump s s.pc (s.mem.getWord (trapEntry v))) ∨
    (i = .rti ∧ returnFromInterrupt s = .next t) := by
  cases i with
  | addReg dr a b => exact .inl ⟨rfl, dr, _, (Host.Outcome.next.inj h).symm⟩
  | addImm dr a v => exact .inl ⟨rfl, dr, _, (Host.Outcome.next.inj h).symm⟩
  | andReg dr a b => exact .inl ⟨rfl, dr, _, (Host.Outcome.next.inj h).symm⟩
  | andImm dr a v => exact .inl ⟨rfl, dr, _, (Host.Outcome.next.inj h).symm⟩
  | xorReg dr a b => exact .inl ⟨rfl, dr, _, (Host.Outcome.next.inj h).symm⟩
  | xorImm dr a v => exact .inl ⟨rfl, dr, _, (Host.Outcome.next.inj h).symm⟩
  | notReg dr a => exact .inl ⟨rfl, dr, _, (Host.Outcome.next.inj h).symm⟩
  | lshf dr a v => exact .inl ⟨rfl, dr, _, (Host.Outcome.next.inj h).symm⟩
  | rshfl dr a v => exact .inl ⟨rfl, dr, _, (Host.Outcome.next.inj h).symm⟩
  | rshfa dr a v => exact .inl ⟨rfl, dr, _, (Host.Outcome.next.inj h).symm⟩
  | lea dr off => exact .inl ⟨rfl, dr, _, (Host.Outcome.next.inj h).symm⟩
  | ldb dr base off =>
    obtain ⟨b, -, hb⟩ := andThen_eq_next.1 h
    exact .inl ⟨rfl, dr, _, (Host.Outcome.next.inj hb).symm⟩
  | ldw dr base off =>
    obtain ⟨-, h⟩ := faultIf_eq_next.1 h
    obtain ⟨⟨v, u⟩, hl, hu⟩ := andThen_eq_next.1 h
    have ht := (Host.Outcome.next.inj hu).symm
    rcases loadWord_eq_next.1 hl with ⟨-, -, rfl⟩ | ⟨d, ha, hd⟩
    · exact .inl ⟨rfl, dr, _, ht⟩
    · rcases readDevice_eq_next.1 hd with ⟨-, -, rfl⟩ | ⟨rfl, rfl, rfl⟩ | ⟨-, -, rfl⟩ | ⟨-, -, rfl⟩
      · exact .inl ⟨rfl, dr, _, ht⟩
      · exact .inr (.inl ⟨dr, base, off, rfl, ha, ht⟩)
      · exact .inl ⟨rfl, dr, _, ht⟩
      · exact .inl ⟨rfl, dr, _, ht⟩
  | stb sr base off =>
    obtain ⟨hr, ht⟩ := writeByte_eq_next.1 h
    exact .inr (.inr (.inl ⟨sr, base, off, rfl, hr, ht⟩))
  | stw sr base off =>
    obtain ⟨ho, h⟩ := faultIf_eq_next.1 h
    rcases storeWord_eq_next.1 h with ⟨hr, ht⟩ | ⟨d, ha, hd⟩
    · exact .inr (.inr (.inr (.inl ⟨sr, base, off, rfl, ho, hr, ht⟩)))
    · exact .inr (.inr (.inr (.inr (.inl ⟨sr, base, off, d, rfl, ha, hd⟩))))
  | br n z p off =>
    exact .inr (.inr (.inr (.inr (.inr (.inl ⟨n, z, p, off, rfl, (Host.Outcome.next.inj h).symm⟩)))))
  | jmp base =>
    obtain ⟨ho, h⟩ := faultIf_eq_next.1 h
    exact .inr (.inr (.inr (.inr (.inr (.inr (.inl ⟨base, .inl rfl, ho, (Host.Outcome.next.inj h).symm⟩))))))
  | ret =>
    obtain ⟨ho, h⟩ := faultIf_eq_next.1 h
    exact .inr (.inr (.inr (.inr (.inr (.inr (.inl ⟨.r7, .inr ⟨rfl, rfl⟩, ho, (Host.Outcome.next.inj h).symm⟩))))))
  | jsr off =>
    exact .inr (.inr (.inr (.inr (.inr (.inr (.inr (.inl ⟨off, rfl, (Host.Outcome.next.inj h).symm⟩)))))))
  | jsrr base =>
    obtain ⟨ho, h⟩ := faultIf_eq_next.1 h
    exact .inr (.inr (.inr (.inr (.inr (.inr (.inr (.inr (.inl ⟨base, rfl, ho, (Host.Outcome.next.inj h).symm⟩))))))))
  | trap v =>
    obtain ⟨w, hw, h⟩ := andThen_eq_next.1 h
    obtain ⟨ho, h⟩ := faultIf_eq_next.1 h
    obtain ⟨-, rfl⟩ := readMemWord_eq_next.1 hw
    exact .inr (.inr (.inr (.inr (.inr (.inr (.inr (.inr (.inr (.inl ⟨v, rfl, ho, (Host.Outcome.next.inj h).symm⟩)))))))))
  | rti => exact .inr (.inr (.inr (.inr (.inr (.inr (.inr (.inr (.inr (.inr ⟨rfl, h⟩)))))))))
  | reserved1010 low => cases h
  | reserved1011 low => cases h

/-- What a step can do when it answers a next state: nothing, an interrupt initiation, or one instruction. -/
theorem step_cases {s t : State} (h : step s = .next t) :
    (s.clock = false ∧ t = s) ∨
    (s.clock = true ∧ interruptTaken Config.supervisorInterruptible (atBoundary s) = true ∧
      initiateInterrupt keyboardVector (atBoundary s) = .next t) ∨
    (∃ i, FetchesAt s (atBoundary s) ∧ fetchInstr (atBoundary s) = .next i ∧ exec i (advancePC (atBoundary s)) = .next t) := by
  unfold step at h
  split at h
  · next hc =>
    simp only at h
    split at h
    · next hi => exact .inr (.inl ⟨hc, hi, h⟩)
    · next hi =>
      obtain ⟨i, hf, he⟩ := andThen_eq_next.1 h
      exact .inr (.inr ⟨i, ⟨hc, rfl, by simpa using hi⟩, hf, he⟩)
  · next hc => exact .inl ⟨by simpa using hc, (Host.Outcome.next.inj h).symm⟩

end Sys2Proof.Machine
end

