-- ==== Sys2Proof/Tests/Slice0.lean ====
section
/-!
SUPPORT. Tests of the model: well-formedness, decoding of words written out from 30_encoding.md and 95_test_vectors.md section 2, one or two
single steps for each instruction with the results of 95_test_vectors.md sections 3 to 6, and for each statement with hypotheses a
concrete case that meets them, at the boundaries where its clauses meet.
-/

open Sys2Proof Sys2Proof.Machine

namespace Sys2Proof.Tests

/-! ### Helpers -/

/-- The step that runs the word at the pc of a launch. -/
def run (w : Nat) (l : Launch) : Outcome State := step ((State.launch l).withFetchWord 16 w)

/-- The outcome is a next state with the property. -/
def passes (o : Outcome State) (p : State → Bool) : Bool :=
  match o with
  | .next t => p t
  | _ => false

/-- The outcome is the fault. -/
def faults (o : Outcome State) (e : Fault) : Bool :=
  match o with
  | .fault f => f == e
  | _ => false

/-- The outcome is the refusal. -/
def refuses (o : Outcome State) (e : Refusal) : Bool :=
  match o with
  | .refused f => f == e
  | _ => false

/-- The word decodes to the instruction, is its encoding, and the instruction is well-formed. -/
def decodesTo (w : Word) (i : Instr) : Bool :=
  i.wellFormed && encode i == w && match decodeWord .strict w with
    | .ok j => j == i
    | .error _ => false

/-- The word is rejected as a reserved encoding. -/
def rejected (w : Word) : Bool :=
  match decodeWord .strict w with
  | .ok _ => false
  | .error e => e == .reservedEncoding

/-- N, Z, P together. -/
def nzp (t : State) : Bool × Bool × Bool := (t.ccN, t.ccZ, t.ccP)

/-- Negative, zero, positive, as `nzp` gives them. -/
def neg : Bool × Bool × Bool := (true, false, false)
def zero : Bool × Bool × Bool := (false, true, false)
def pos : Bool × Bool × Bool := (false, false, true)

/-- A launch at x3000 with one word in memory. -/
def withWord (l : Launch) (a v : Word) : Launch := { l with memory := l.memory.setWord a v }

/-- The usual launch of these tests. -/
def base : Launch := { pc := 0x3000#16 }

/-- The same in user mode. -/
def userBase : Launch := { pc := 0x3000#16, priv := .user }

/-! ### Well-formedness and reset -/

/-- The word of XOR with imm5 = 11111 is NOT's (30_encoding.md rule R62). -/
theorem test_wellFormed_refuses_xor_minus_one : (Instr.xorImm .r3 .r2 0b11111#5).wellFormed = false := by decide

/-- The word of JMP R7 is RET's (30_encoding.md rule R64). -/
theorem test_wellFormed_refuses_jmp_r7 : (Instr.jmp .r7).wellFormed = false := by decide

theorem test_reset_inv : State.reset.Inv := by decide

theorem test_reset_memory_wf : State.reset.mem.wf = true := by decide

/-! ### Decoding, words written out field by field (95_test_vectors.md section 2) -/

theorem test_decode_add : decodesTo 0b0001_010_011_0_00_100#16 (.addReg .r2 .r3 .r4) ∧
    decodesTo 0b0001_001_001_1_11111#16 (.addImm .r1 .r1 0b11111#5) := by decide
theorem test_decode_and : decodesTo 0b0101_010_011_0_00_100#16 (.andReg .r2 .r3 .r4) ∧
    decodesTo 0b0101_010_011_1_00111#16 (.andImm .r2 .r3 0b00111#5) := by decide
theorem test_decode_xor : decodesTo 0b1001_011_001_0_00_010#16 (.xorReg .r3 .r1 .r2) ∧
    decodesTo 0b1001_011_001_1_01100#16 (.xorImm .r3 .r1 0b01100#5) := by decide
theorem test_decode_not : decodesTo 0b1001_100_010_1_11111#16 (.notReg .r4 .r2) := by decide
theorem test_decode_shifts : decodesTo 0b1101_010_011_0_0_0011#16 (.lshf .r2 .r3 0b0011#4) ∧
    decodesTo 0b1101_010_011_0_1_0111#16 (.rshfl .r2 .r3 0b0111#4) ∧
    decodesTo 0b1101_010_011_1_1_0111#16 (.rshfa .r2 .r3 0b0111#4) := by decide
theorem test_decode_loads : decodesTo 0b0010_100_010_111111#16 (.ldb .r4 .r2 0b111111#6) ∧
    decodesTo 0b0110_100_010_001010#16 (.ldw .r4 .r2 0b001010#6) ∧
    decodesTo 0b1110_100_111111110#16 (.lea .r4 0b111111110#9) := by decide
theorem test_decode_stores : decodesTo 0b0011_100_010_001010#16 (.stb .r4 .r2 0b001010#6) ∧
    decodesTo 0b0111_100_010_001010#16 (.stw .r4 .r2 0b001010#6) := by decide
theorem test_decode_br : decodesTo 0b0000_0_1_1_000000101#16 (.br false true true 0b000000101#9) ∧
    decodesTo 0b0000_1_0_0_111111101#16 (.br true false false 0b111111101#9) := by decide
theorem test_decode_jumps : decodesTo 0b1100_000_010_000000#16 (.jmp .r2) ∧ decodesTo 0b1100_000_111_000000#16 .ret := by decide
theorem test_decode_calls : decodesTo 0b0100_1_00000010000#16 (.jsr 0b00000010000#11) ∧
    decodesTo 0b0100_0_00_011_000000#16 (.jsrr .r3) := by decide
theorem test_decode_system : decodesTo 0b1111_0000_00100011#16 (.trap 0b00100011#8) ∧ decodesTo 0b1000_000000000000#16 .rti := by decide
theorem test_decode_reserved : decodesTo 0b1010_000000000000#16 (.reserved1010 0#12) ∧
    decodesTo 0b1011_111111111111#16 (.reserved1011 0xFFF#12) := by decide

/-- One word with a 1 in each constant-zero field (30_encoding.md rule R71). -/
theorem test_decode_rejects_constant_zero_fields : ([0x14CC#16, 0x54D4#16, 0x964A#16, 0xC280#16, 0xC081#16, 0x42C0#16, 0xF123#16,
    0x8001#16].all rejected) = true := by decide

/-- No two rows of the table match one word, but for the two alias rows and the row each is an alias of. -/
theorem test_opcode_rows_disjoint : opcodeRows.Pairwise (fun a b => a.pattern &&& (a.mask &&& b.mask) ≠ b.pattern &&& (a.mask &&& b.mask) ∨
    (a.mnemonic, b.mnemonic) ∈ [("RET", "JMP"), ("NOT", "XOR")]) := by decide

/-! ### Operate (95_test_vectors.md section 3) -/

theorem test_add_overflow_wraps : passes (run 0x14C4 { base with r3 := 0x7FFF#16, r4 := 0x0001#16 })
    (fun t => t.r2 == 0x8000#16 && nzp t == neg && t.pc == 0x3002#16) := by decide
theorem test_add_r6_user : passes (run 0x1DA2 { userBase with usp := 0x4000#16, ssp := 0x2000#16 })
    (fun t => t.usp == 0x4002#16 && t.ssp == 0x2000#16 && nzp t == pos) := by decide
theorem test_addImm_negative : passes (run 0x127F { base with r1 := 0x0000#16 }) (fun t => t.r1 == 0xFFFF#16 && nzp t == neg) := by decide
theorem test_and_register : passes (run 0x54C4 { base with r3 := 0xF0F0#16, r4 := 0x3C3C#16 })
    (fun t => t.r2 == 0x3030#16 && nzp t == pos) := by decide
theorem test_andImm_sign_extends : passes (run 0x54F0 { base with r3 := 0xABCD#16 }) (fun t => t.r2 == 0xABC0#16 && nzp t == neg) := by decide
theorem test_xor_register : passes (run 0x9642 { base with r1 := 0xFF00#16, r2 := 0x0FF0#16 })
    (fun t => t.r3 == 0xF0F0#16 && nzp t == neg) := by decide
theorem test_xorImm : passes (run 0x966C { base with r1 := 0x000F#16 }) (fun t => t.r3 == 0x0003#16 && nzp t == pos) := by decide
theorem test_not : passes (run 0x98BF { base with r2 := 0x8000#16 }) (fun t => t.r4 == 0x7FFF#16 && nzp t == pos) := by decide
theorem test_lshf : passes (run 0xD4C5 { base with r3 := 0xFFFF#16 }) (fun t => t.r2 == 0xFFE0#16 && nzp t == neg) := by decide
theorem test_lshf_bit5_not_examined : passes (run 0xD4E3 { base with r3 := 0x1234#16 }) (fun t => t.r2 == 0x91A0#16) := by decide
theorem test_rshfl : passes (run 0xD4D7 { base with r3 := 0xFFFF#16 }) (fun t => t.r2 == 0x01FF#16 && nzp t == pos) := by decide
theorem test_rshfa : passes (run 0xD4F7 { base with r3 := 0x8000#16 }) (fun t => t.r2 == 0xFF00#16 && nzp t == neg) := by decide
theorem test_rshfa_minus_one : passes (run 0xD4F1 { base with r3 := 0xFFFF#16 }) (fun t => t.r2 == 0xFFFF#16) := by decide

/-! ### Data movement (section 4) -/

theorem test_ldb_sign_extends : passes (run 0x288A (withWord { base with r2 := 0x4001#16 } 0x400A#16 0x80FF#16))
    (fun t => t.r4 == 0xFF80#16 && nzp t == neg) := by decide
theorem test_ldw_little_endian : passes (run 0x68BF { base with r2 := 0x4000#16, memory := [(0x3FFE, 0xEF#8), (0x3FFF, 0xBE#8)] })
    (fun t => t.r4 == 0xBEEF#16 && nzp t == neg) := by decide
theorem test_ldw_odd_base_in_device_region : faults (run 0x6880 { base with r2 := 0xFE09#16 }) .illegalOperandAddress := by decide
theorem test_lea_at_zero : passes (run 0xE9FF { base with pc := 0x0000#16 }) (fun t => t.r4 == 0x0000#16 && nzp t == zero && t.pc == 0x0002#16) := by
  decide
theorem test_stb_low_byte_at_odd_address : passes (run 0x388A { base with r4 := 0x12FF#16, r2 := 0x4001#16 })
    (fun t => t.mem.get 0x400B == 0xFF#8 && t.mem.get 0x400A == 0x00#8 && nzp t == nzp (State.launch base)) := by decide
theorem test_stw_low_byte_first : passes (run 0x788A { base with r4 := 0x1234#16, r2 := 0x4000#16 })
    (fun t => t.mem.get 0x4014 == 0x34#8 && t.mem.get 0x4015 == 0x12#8) := by decide
theorem test_stw_to_mcr_stops : passes (run 0x703F { base with r0 := 0x0000#16 }) (fun t => !t.clock && t.pc == 0x3002#16) := by decide

/-! ### Control (section 5) -/

theorem test_br_taken : passes (run 0x0F00 { base with p := true }) (fun t => t.pc == 0x2E02#16) := by decide
theorem test_br_no_flag_set : passes (run 0x0FFD base) (fun t => t.pc == 0x3002#16) := by decide
theorem test_jmp : passes (run 0xC180 { userBase with usp := 0x5000#16, ssp := 0x2000#16 }) (fun t => t.pc == 0x5000#16) := by decide
theorem test_jmp_odd : faults (run 0xC080 { base with r2 := 0x4001#16 }) .illegalOperandAddress := by decide
theorem test_ret : passes (run 0xC1C0 { base with r7 := 0x3100#16 }) (fun t => t.pc == 0x3100#16 && t.r7 == 0x3100#16) := by decide
theorem test_jsr : passes (run 0x4C00 base) (fun t => t.r7 == 0x3002#16 && t.pc == 0x2802#16) := by decide
theorem test_jsrr : passes (run 0x40C0 { base with r3 := 0x5000#16 }) (fun t => t.r7 == 0x3002#16 && t.pc == 0x5000#16) := by decide
theorem test_jsrr_r7 : passes (run 0x41C0 { base with r7 := 0x5000#16 }) (fun t => t.r7 == 0x3002#16 && t.pc == 0x3002#16) := by decide

/-! ### System and interrupt (section 6) -/

theorem test_trap : passes (run 0xF0FF (withWord { userBase with n := true } 0x01FE#16 0x2000#16))
    (fun t => t.r7 == 0x3002#16 && t.pc == 0x2000#16 && t.mode == .user && nzp t == neg) := by decide
theorem test_trap_odd_entry : faults (run 0xF020 (withWord base 0x0040#16 0x0401#16)) .unalignedPC := by decide
theorem test_rti_to_user : passes (run 0x8000 (withWord (withWord { base with ssp := 0x2FFC#16, usp := 0x7000#16, n := true }
    0x2FFC#16 0x3004#16) 0x2FFE#16 0xFFFF#16))
    (fun t => t.pc == 0x3004#16 && t.ssp == 0x3000#16 && t.usp == 0x7000#16 && t.mode == .user && nzp t == (true, true, true)) := by decide
theorem test_rti_in_user_mode : faults (run 0x8000 { userBase with usp := 0x7001#16, ssp := 0x2FFD#16 }) .privilegeModeViolation := by decide
theorem test_reserved1010 : faults (run 0xA000 base) (.illegalOpcode 0xA000#16) := by decide
theorem test_reserved1011 : faults (run 0xBFFF base) (.illegalOpcode 0xBFFF#16) := by decide
theorem test_reserved_encoding : faults (run 0xC081 base) (.reservedEncoding 0xC081#16) := by decide

/-- User mode at x3004 with a character received and IE set: the first row of the initiation table of section 6. -/
def interrupted : State :=
  { State.launch (withWord { pc := 0x3004#16, priv := .user, z := true, ssp := 0x0414#16, usp := 0x7000#16 } 0x0280#16 0x0600#16) with
    kbReady := true, kbIE := true, kbdr := 0x61#8 }

theorem test_interrupt_initiation : passes (step interrupted)
    (fun t => t.pc == 0x0600#16 && t.ssp == 0x0410#16 && t.mode == .supervisor && wordAt t.mem 0x0410#16 == 0x3004#16 &&
      wordAt t.mem 0x0412#16 == 0x8002#16 && nzp t == zero) := by decide

/-- A key struck at a boundary is seen by the interrupt condition of that boundary (60_exceptions.md section 5). -/
theorem test_key_strike_interrupts_at_its_boundary :
    passes (step { interrupted with kbReady := false, schedule := [[.keyStrike 0x62#8]] })
      (fun t => t.pc == 0x0600#16 && t.kbdr == 0x62#8 && t.kbReady && t.schedule.isEmpty) := by decide

/-! ### Assembly (30_encoding.md rules R73, R74) -/

theorem test_assemble_branch_label : assemble 0x3000#16 (.branch .brZP 0x300C#16) = some (.br false true true 0b000000101#9) ∧
    assemble 0x3000#16 (.branch .br 0x3003#16) = none := by decide
theorem test_assemble_ranges : assemble 0#16 (.add .r2 .r3 (.imm 16)) = none ∧ assemble 0#16 (.lshf .r2 .r3 (-1)) = none ∧
    assemble 0#16 (.service .halt) = some (.trap 0x25#8) := by decide

/-! ### Witnesses: concrete cases that meet the hypotheses of the statements -/

/-- For the round trip: the extreme immediates of the two forms whose well-formedness is restricted. -/
theorem witness_DecodeOfEncode : (Instr.xorImm .r3 .r1 0b11110#5).wellFormed = true ∧ (Instr.jmp .r6).wellFormed = true := by decide

theorem witness_EncodeOfDecode : decodesTo 0xD4D0#16 (.rshfl .r2 .r3 0#4) ∧ decodesTo 0xD4C0#16 (.lshf .r2 .r3 0#4) ∧
    decodeWord .strict 0xD4E0#16 = .ok (.lshf .r2 .r3 0#4) := by decide

theorem witness_IgnorePolicy : rejected 0x14CC#16 ∧ decodeWord .ignore 0x14CC#16 = .ok (.addReg .r2 .r3 .r4) ∧
    decodesTo 0x14C4#16 (.addReg .r2 .r3 .r4) := by decide

theorem witness_XorImmediate : (0b11110#5 : BitVec 5) ≠ 0b11111#5 ∧ (0b00000#5 : BitVec 5) ≠ 0b11111#5 := by decide

theorem witness_LogicalRightShift : (0b0001#4 : BitVec 4) ≠ 0#4 := by decide

theorem witness_ConditionCodes : Instr.setsCC (.lea .r0 0#9) = true ∧ Instr.setsCC (.jsr 0#11) = false ∧ Instr.jsr 0#11 ≠ .rti ∧
    (∃ t, exec (.lea .r0 0#9) State.reset = .next t) ∧ ∃ t, exec (.jsr 0#11) State.reset = .next t :=
  ⟨rfl, rfl, by decide, ⟨_, rfl⟩, ⟨_, rfl⟩⟩

/-- Byte addresses in ordinary memory: the lowest (by wrapping), the highest; and the lowest and highest of the device region. -/
theorem witness_byte_addresses : byteAddress 0xFFFF#16 1#6 = 0x0000#16 ∧ inDeviceRegion 0x0000#16 = false ∧
    byteAddress 0xFE00#16 0b111111#6 = 0xFDFF#16 ∧ inDeviceRegion 0xFDFF#16 = false ∧
    byteAddress 0xFDFF#16 1#6 = 0xFE00#16 ∧ inDeviceRegion 0xFE00#16 = true ∧ inDeviceRegion 0xFFFF#16 = true := by decide

/-- A state with a base register in R2, a value in R4 and both device states set. -/
def atBase (r2 : Word) : State := { State.launch { base with r2 := r2, r4 := 0x1241#16, displayReady := true } with kbReady := true, kbIE := true }

/-- LDB and STB at the highest ordinary byte, with a canonical memory. -/
theorem witness_LdbStb : inDeviceRegion (byteAddress (getReg (atBase 0xFDFF#16) .r2) 0#6) = false ∧ (atBase 0xFDFF#16).mem.wf = true := by decide

/-- LDW and STW at the highest ordinary word, with an even base. -/
theorem witness_LdwStw : isOdd (getReg (atBase 0xFDFE#16) .r2) = false ∧ (atBase 0xFDFE#16).mem.wf = true ∧
    inDeviceRegion (wordAddress (getReg (atBase 0xFDFE#16) .r2) 0#6) = false := by decide

/-- LDW from each device register. -/
theorem witness_LdwReadsDeviceRegisters : [0xFE00#16, 0xFE02#16, 0xFE04#16, 0xFFFE#16].all (fun a =>
    !isOdd (getReg (atBase a) .r2) && wordAddress (getReg (atBase a) .r2) 0#6 == a) = true := by decide

/-- STW to each device register that takes it, the display ready. -/
theorem witness_StwWritesDeviceRegisters : [0xFE00#16, 0xFE06#16, 0xFFFE#16].all (fun a =>
    !isOdd (getReg (atBase a) .r2) && wordAddress (getReg (atBase a) .r2) 0#6 == a && (atBase a).dsrReady) = true := by decide

theorem witness_ByteAccessRefused : inDeviceRegion (byteAddress (getReg (atBase 0xFE00#16) .r2) 0#6) = true ∧
    refuses (exec (.ldb .r4 .r2 0#6) (atBase 0xFE00#16)) .unmappedIO = true ∧
    refuses (exec (.stb .r4 .r2 0#6) (atBase 0xFFFF#16)) .unmappedIO = true := by decide

/-- The unassigned addresses next to the assigned ones, and each misuse. -/
theorem witness_WordAccessRefusals :
    ([0xFE08#16, 0xFFFC#16].all fun a => decide (0xFE00 ≤ a.toNat) && !isOdd (getReg (atBase a) .r2) &&
      (a ∉ [0xFE00#16, 0xFE02#16, 0xFE04#16, 0xFE06#16, 0xFFFE#16]) && refuses (exec (.ldw .r4 .r2 0#6) (atBase a)) .unmappedIO &&
      refuses (exec (.stw .r4 .r2 0#6) (atBase a)) .unmappedIO) = true ∧
    refuses (exec (.ldw .r4 .r2 0#6) (atBase 0xFE06#16)) .deviceMisuse = true ∧
    ([0xFE02#16, 0xFE04#16].all fun a => refuses (exec (.stw .r4 .r2 0#6) (atBase a)) .deviceMisuse) = true ∧
    refuses (exec (.stw .r4 .r2 0#6) { atBase 0xFE06#16 with dsrReady := false }) .deviceMisuse = true := by decide

/-- A word store at the highest ordinary word, then the loads of its two bytes through R2 and R3. -/
theorem witness_LoadsSeeStore : ∃ t, exec (.stw .r4 .r2 0#6) { atBase 0xFDFE#16 with r3 := 0xFDFF#16 } = .next t ∧
    (atBase 0xFDFE#16).mem.wf = true ∧ inDeviceRegion (wordAddress (getReg (atBase 0xFDFE#16) .r2) 0#6) = false ∧
    byteAddress (getReg t .r2) 0#6 = wordAddress 0xFDFE#16 0#6 ∧ byteAddress (getReg t .r3) 0#6 = wordAddress 0xFDFE#16 0#6 + 1#16 :=
  ⟨_, rfl, by decide, by decide, by decide, by decide⟩

/-- A branch taken on each of N, Z, P, one not taken, one that tests nothing, and two names with the same bits. -/
theorem witness_Branch : branchTaken true false false { State.reset with ccN := true } = true ∧
    branchTaken false true false { State.reset with ccZ := true } = true ∧
    branchTaken false false true { State.reset with ccP := true } = true ∧
    branchTaken true true true State.reset = false ∧ branchTaken false false false { State.reset with ccN := true } = false ∧
    BranchName.brNZP.bits = (true, true, true) ∧ BranchName.br.bits = (true, true, true) := by decide

/-- Even and odd targets, at both ends of the address space. -/
theorem witness_JmpRetJsrr : isOdd (getReg { State.reset with r2 := 0xFFFE#16 } .r2) = false ∧
    isOdd (getReg { State.reset with r2 := 0x0001#16 } .r2) = true ∧ isOdd (getReg { State.reset with r7 := 0x0000#16 } .r7) = false ∧
    isOdd (getReg { State.reset with r7 := 0xFFFF#16 } .r7) = true ∧ Reg.r2 ≠ .r7 ∧ isOdd State.reset.pc = false := by decide

/-- A state in which each instruction of the list has an odd address register. -/
def oddState : State := { State.reset with r2 := 0x4001#16, r7 := 0x3101#16, ssp := 0x2FFD#16 }

theorem witness_IllegalOperandAddress : isOdd oddState.pc = false ∧
    ([Instr.ldw .r4 .r2 0#6, .stw .r4 .r2 0#6, .jmp .r2, .ret, .jsrr .r2, .rti].all fun i =>
      faults (exec i oddState) .illegalOperandAddress) = true ∧
    faults (exec (.jsrr .r7) oddState) .illegalOperandAddress = false := by decide

theorem witness_Trap : isOdd (wordAt (Memory.setWord [] 0x01FE#16 0x2000#16) (BitVec.ofNat 16 (2 * (0xFF#8).toNat))) = false ∧
    isOdd (wordAt (Memory.setWord [] 0x0000#16 0x0401#16) (BitVec.ofNat 16 (2 * (0x00#8).toNat))) = true := by decide

/-- RTI with the frame in the two highest ordinary words. -/
def rtiHigh : State := State.launch (withWord { base with ssp := 0xFDFC#16 } 0xFDFC#16 0x3004#16)

theorem witness_RtiPops : rtiHigh.mode = .supervisor ∧ isOdd rtiHigh.ssp = false ∧ inDeviceRegion rtiHigh.ssp = false ∧
    inDeviceRegion (rtiHigh.ssp + 2#16) = false ∧ isOdd (wordAt rtiHigh.mem rtiHigh.ssp) = false := by decide

theorem witness_RtiStops : faults (exec .rti { rtiHigh with ssp := 0xFDFD#16 }) .illegalOperandAddress = true ∧
    refuses (exec .rti { rtiHigh with ssp := 0xFDFE#16 }) .unmappedIO = true ∧
    refuses (exec .rti { rtiHigh with ssp := 0xFFFE#16 }) .unmappedIO = true ∧
    faults (exec .rti { rtiHigh with mem := Memory.setWord [] 0xFDFC#16 0x3005#16 }) .unalignedPC = true := by decide

theorem witness_PrivilegeViolation : faults (exec .rti { rtiHigh with mode := .user }) .privilegeModeViolation = true := by decide

/-- A fetch of the highest ordinary word. -/
def fetchHigh : State := (State.launch { pc := 0xFDFE#16 }).withFetchWord 16 0x14C4

theorem witness_StepRuns : FetchesAt fetchHigh fetchHigh ∧ isOdd fetchHigh.pc = false ∧ inDeviceRegion fetchHigh.pc = false ∧
    decodeWord .strict (wordAt fetchHigh.mem fetchHigh.pc) = .ok (.addReg .r2 .r3 .r4) := by decide

theorem witness_FetchStops : FetchesAt { fetchHigh with pc := 0xFE00#16 } { fetchHigh with pc := 0xFE00#16 } ∧
    refuses (step { fetchHigh with pc := 0xFE00#16 }) .unmappedIO = true ∧
    faults (step { fetchHigh with pc := 0xFDFF#16 }) .unalignedPC = true ∧
    faults (step ((State.launch { pc := 0xFDFE#16 }).withFetchWord 16 0x14CC)) (.reservedEncoding 0x14CC#16) = true := by decide

theorem witness_Stopped : ({ State.reset with clock := false } : State).clock = false := by decide

/-- Initiation with the lowest and the highest supervisor stack that fit. -/
theorem witness_InterruptInitiation : ([0x0004#16, 0xFE00#16].all fun sp =>
    let b : State := { interrupted with ssp := sp }
    b.clock && atBoundary b == b && b.mode == .user && b.kbReady && b.kbIE && b.mem.wf && !isOdd b.ssp && !inDeviceRegion (b.ssp - 2#16) &&
      !inDeviceRegion (b.ssp - 4#16) && !isOdd (wordAt b.mem 0x0280#16)) = true := by decide

theorem witness_InterruptStops : interrupted.clock = true ∧ atBoundary interrupted = interrupted ∧ interrupted.mode = .user ∧
    interrupted.kbReady = true ∧ interrupted.kbIE = true ∧
    faults (step { interrupted with ssp := 0x0413#16 }) .illegalOperandAddress = true ∧
    faults (step { interrupted with mem := Memory.setWord [] 0x0280#16 0x0601#16 }) .unalignedPC = true ∧
    refuses (step { interrupted with ssp := 0x0002#16 }) .unmappedIO = true ∧
    refuses (step { interrupted with ssp := 0xFE02#16 }) .unmappedIO = true := by decide

theorem witness_InterruptCondition : interruptTaken Config.supervisorInterruptible interrupted = true ∧
    interruptTaken Config.supervisorInterruptible { interrupted with mode := .supervisor } = false := by decide

/-- A service routine that has done nothing yet: the frame is the one initiation left. -/
theorem witness_RtiReturns : ∃ t, initiateInterrupt keyboardVector interrupted = .next t ∧ interrupted.mem.wf = true ∧
    isOdd interrupted.pc = false ∧ t.mode = .supervisor ∧ t.ssp = t.ssp ∧ ∀ k < 4, t.mem.get (t.ssp.toNat + k) = t.mem.get (t.ssp.toNat + k) :=
  ⟨_, rfl, by decide, by decide, by decide, rfl, fun _ _ => rfl⟩

/-- A store to the location that pc has moved to, of the word of ADD R2, R3, R4. -/
def storesNext : State := State.launch { base with r2 := 0x3000#16, r4 := 0x14C4#16 }

theorem witness_NextFetchSees : storesNext.mem.wf = true ∧ storesNext.clock = true ∧ storesNext.schedule = [] ∧
    interruptTaken Config.supervisorInterruptible storesNext = false ∧ isOdd storesNext.pc = false ∧
    inDeviceRegion storesNext.pc = false ∧ wordAddress (getReg storesNext .r2) 0#6 = storesNext.pc ∧
    decodeWord .strict (getReg storesNext .r4) = .ok (.addReg .r2 .r3 .r4) := by decide

/-- A state in which an interrupt would be taken and a key strike is scheduled: the placed word runs all the same. -/
theorem witness_PlacedWord : interrupted.mem.wf = true ∧ isOdd interrupted.pc = false ∧ inDeviceRegion interrupted.pc = false ∧
    decodeTableWord 16 0x14C4 = some (.addReg .r2 .r3 .r4) ∧
    passes (step (({ interrupted with schedule := [[.keyStrike 0x62#8]] } : State).withFetchWord 16 0x14C4))
      (fun t => t.pc == 0x3006#16 && t.schedule == [[.keyStrike 0x62#8]]) = true := by decide

theorem witness_StepKeepsInv : State.reset.Inv ∧ ∃ t, step (State.reset.withFetchWord 16 0x14C4) = .next t :=
  ⟨by decide, ⟨_, rfl⟩⟩

theorem witness_LaunchValid : Launch.Valid { pc := 0xFDFE#16, memory := [(0x0000, 0x01#8), (0xFDFF, 0xFF#8)] } := by decide

theorem witness_MemoryReads : Memory.wf [(0x0000, 0x01#8), (0xFDFF, 0xFF#8)] = true ∧ Memory.wf [(0xFDFF, 0xFF#8), (0x0000, 0x01#8)] = false ∧
    Memory.set [(0x0000, 0x01#8)] 0x0000 0x00#8 = [] := by decide

/-- A step that leaves user mode and one that leaves supervisor mode. -/
theorem witness_ModeChanges : interrupted.mode = .user ∧ passes (step interrupted) (fun t => t.mode == .supervisor) = true ∧
    passes (run 0x8000 (withWord (withWord { base with ssp := 0x2FFC#16 } 0x2FFC#16 0x3004#16) 0x2FFE#16 0x8002#16))
      (fun t => t.mode == .user) = true := by decide

/-- ADD R6, R6, #2 in both modes. -/
theorem witness_Unselected : (State.launch base).mode = .supervisor ∧ (∃ t, exec (.addImm .r6 .r6 2#5) (State.launch base) = .next t) ∧
    (State.launch userBase).mode = .user ∧ ∃ t, exec (.addImm .r6 .r6 2#5) (State.launch userBase) = .next t :=
  ⟨rfl, ⟨_, rfl⟩, rfl, ⟨_, rfl⟩⟩

theorem witness_InstructionsAlike : Instr.trap 0x25#8 ≠ .rti := by decide

/-- TRAP x25 as an instruction, and as the word a step fetches with a device event at its boundary. -/
theorem witness_OnlyStores : (∃ t, exec (.trap 0x25#8) State.reset = .next t) ∧ (∀ sr b o, Instr.trap 0x25#8 ≠ .stb sr b o) ∧
    (∀ sr b o, Instr.trap 0x25#8 ≠ .stw sr b o) ∧
    let s : State := { State.reset.withFetchWord 16 0xF025 with schedule := [[.keyStrike 0x61#8]] }
    FetchesAt s (atBoundary s) ∧ decodeWord .strict (wordAt (atBoundary s).mem (atBoundary s).pc) = .ok (.trap 0x25#8) ∧
      ∃ t, step s = .next t :=
  ⟨⟨_, rfl⟩, fun _ _ _ => by simp, fun _ _ _ => by simp, by decide, by decide, ⟨_, rfl⟩⟩

/-- A boundary with two events, the last key struck winning (60_exceptions.md rule R181), and one with none left. -/
theorem witness_DeviceEvents :
    (let s : State := { State.reset with schedule := [[.keyStrike 0x61#8, .keyStrike 0x62#8, .displayReady], []] }
     (atBoundary s).kbdr = 0x62#8 ∧ (atBoundary s).kbReady = true ∧ (atBoundary s).dsrReady = true ∧ (atBoundary s).schedule = [[]]) ∧
    State.reset.schedule = [] := by decide

theorem witness_OnlyMcrStops : (State.reset.withFetchWord 16 0x703F).clock = true ∧
    passes (step (State.reset.withFetchWord 16 0x703F)) (fun t => !t.clock) = true := by decide

theorem witness_DisplayGrows : passes (step ((atBase 0xFE06#16).withFetchWord 16 0x7880)) (fun t => t.display == [0x41#8] && !t.dsrReady) = true ∧
    passes (step ((atBase 0xFE00#16).withFetchWord 16 0x7880)) (fun t => t.display.isEmpty) = true := by decide

end Sys2Proof.Tests
end

section
/-! SUPPORT. `setcc` in the spec's terms (00_scope.md rule R11), and the statement about it. -/

namespace Sys2Proof.Machine

/-- N is bit 15, the bit the spec writes `v[15]`. -/
theorem setcc_ccN_eq_getLsbD (v : Word) (s : State) : (setcc v s).ccN = v.getLsbD 15 := by
  rw [setcc_ccN, BitVec.msb_eq_getLsbD_last]

theorem setcc_ccZ_iff (v : Word) (s : State) : (setcc v s).ccZ = true ↔ v = 0#16 := by
  rw [setcc_ccZ, beq_iff_eq]

theorem setcc_ccP_iff (v : Word) (s : State) : (setcc v s).ccP = true ↔ v.getLsbD 15 = false ∧ v ≠ 0#16 := by
  rw [← setcc_ccN_eq_getLsbD v s, setcc_ccN, setcc_ccP, Bool.and_eq_true, Bool.not_eq_true', bne_iff_ne]

/-- `setcc` writes no register, selects no other stack pointer, and keeps the mode. -/
theorem sameRegsExcept_setcc (v : Word) (s : State) : SameRegsExcept s (setcc v s) [] where
  regs := fun r _ => getReg_setcc v s r
  idle := by simp only [idleSP, setcc_mode, setcc_ssp, setcc_usp]
  mode := setcc_mode v s

theorem sameDevices_setcc (v : Word) (s : State) : SameDevices s (setcc v s) := by
  constructor <;> simp

/-- Settles O6: each code from its equation, the frame field by field. -/
theorem setccSetsExactlyOneConditionCode : Obligations.SetccSetsExactlyOneConditionCode := fun v s =>
  ⟨setcc_ccN_eq_getLsbD v s, setcc_ccZ_iff v s, setcc_ccP_iff v s, oneHot_setcc v s, ccFrom_setcc v s,
    sameRegsExcept_setcc v s, setcc_pc v s, sameMemory_of_mem_eq (setcc_mem v s), sameDevices_setcc v s⟩

end Sys2Proof.Machine
end

section
/-! SUPPORT. Every step keeps the invariant of Safety.lean (10_state.md rules R25, R29). For each shape of change of `exec_cases` the invariant is kept, then for
one instruction, then for the step. -/

namespace Sys2Proof.Machine

/-! ### Parity of the targets of jumps (10_state.md rule R25) -/

@[simp] theorem isOdd_pcRelative9 (pc : Word) (offset9 : BitVec 9) : isOdd (pcRelative9 pc offset9) = isOdd pc :=
  isOdd_add_of_even (isOdd_lshfWord_one _)

@[simp] theorem isOdd_pcRelative11 (pc : Word) (offset11 : BitVec 11) : isOdd (pcRelative11 pc offset11) = isOdd pc :=
  isOdd_add_of_even (isOdd_lshfWord_one _)

/-! ### Stores to a device register -/

/-- A store to a device register leaves memory as it was. -/
theorem writeDevice_mem {d : DeviceReg} {v : Word} {s t : State} (h : writeDevice d v s = .next t) : t.mem = s.mem := by
  rcases writeDevice_eq_next.1 h with ⟨-, rfl⟩ | ⟨-, -, rfl⟩ | ⟨-, rfl⟩ <;> rfl

/-- A store to a device register changes nothing of the processor. -/
theorem writeDevice_sameProcessor {d : DeviceReg} {v : Word} {s t : State} (h : writeDevice d v s = .next t) :
    SameProcessor s t := by
  rcases writeDevice_eq_next.1 h with ⟨-, rfl⟩ | ⟨-, -, rfl⟩ | ⟨-, rfl⟩ <;>
    exact ⟨⟨fun r _ => by simp, rfl, rfl⟩, ⟨rfl, rfl, rfl⟩, rfl⟩

/-! ### The invariant under each shape of change -/

section
variable {s t : State}

/-- The invariant speaks of memory and of the parity of pc only. -/
theorem State.Inv.of_mem_eq (h : s.Inv) (hm : t.mem = s.mem) (hpc : isOdd t.pc = false) : t.Inv := by
  obtain ⟨hwf, hord, -⟩ := h
  exact ⟨hm ▸ hwf, hm ▸ hord, hpc⟩

theorem State.Inv.isOdd_pc (h : s.Inv) : isOdd s.pc = false := by
  obtain ⟨-, -, hpc⟩ := h
  exact hpc

protected theorem State.Inv.withPC (h : s.Inv) {v : Word} (hv : isOdd v = false) : (s.withPC v).Inv :=
  h.of_mem_eq rfl hv

protected theorem State.Inv.linkAndJump (h : s.Inv) (link : Word) {target : Word} (ht : isOdd target = false) :
    (linkAndJump s link target).Inv :=
  h.of_mem_eq (by simp) ht

protected theorem State.Inv.writeResult (h : s.Inv) (dr : Reg) (v : Word) : (writeResult dr v s).Inv :=
  h.of_mem_eq (by simp) (by simpa using h.isOdd_pc)

theorem State.Inv.of_writeDevice (h : s.Inv) {d : DeviceReg} {v : Word} (hd : writeDevice d v s = .next t) : t.Inv :=
  h.of_mem_eq (writeDevice_mem hd) (by rw [(writeDevice_sameProcessor hd).pc]; exact h.isOdd_pc)

/-- A byte store to ordinary memory keeps the invariant. -/
theorem State.Inv.storeByte (h : s.Inv) {a : Word} (ha : inDeviceRegion a = false) (v : Byte) :
    (s.withMem (s.mem.set a.toNat v)).Inv := by
  obtain ⟨hwf, hord, hpc⟩ := h
  have hlt : a.toNat < 0xFE00 := by simpa [inDeviceRegion] using ha
  exact ⟨Memory.set_wf hwf _ _, Memory.set_ordinary hord hlt _, hpc⟩

/-- A word store at an even address of ordinary memory keeps the invariant. -/
protected theorem State.Inv.storeWord (h : s.Inv) {a : Word} (ha : inDeviceRegion a = false) (ho : isOdd a = false) (v : Word) :
    (s.withMem (s.mem.setWord a v)).Inv := by
  obtain ⟨hwf, hord, hpc⟩ := h
  exact ⟨Memory.setWord_wf hwf _ _, Memory.setWord_ordinary hord (succ_ordinary_of_even ha ho) _, hpc⟩

protected theorem State.Inv.atBoundary (h : s.Inv) : (atBoundary s).Inv :=
  h.of_mem_eq (by simp) (by simpa using h.isOdd_pc)

/-- The incremented PC is even (10_state.md rules R24, R25). -/
protected theorem State.Inv.advancePC (h : s.Inv) : (advancePC s).Inv :=
  h.withPC ((isOdd_add_of_even (by decide)).trans h.isOdd_pc)

/-- RTI pops an even pc or stops (the decision D9, log 22). -/
theorem State.Inv.of_returnFromInterrupt (h : s.Inv) (hr : returnFromInterrupt s = .next t) : t.Inv := by
  obtain ⟨-, -, -, -, hodd, rfl⟩ := returnFromInterrupt_eq_next.1 hr
  exact h.of_mem_eq rfl hodd

/-- Initiation stores two words at even addresses of ordinary memory and loads an even vector-table entry (60_exceptions.md rule R172). -/
theorem State.Inv.of_initiateInterrupt (h : s.Inv) {intv : BitVec 8} (hi : initiateInterrupt intv s = .next t) : t.Inv := by
  obtain ⟨hssp, -, hentry, hpsr, hpc, rfl⟩ := initiateInterrupt_eq_next.1 hi
  have hpushed := (h.storeWord hpsr ((isOdd_sub_of_even (by decide)).trans hssp) s.psr).storeWord hpc
    ((isOdd_sub_of_even (by decide)).trans hssp) s.pc
  exact hpushed.of_mem_eq rfl hentry

/-! ### One instruction, one step -/

/-- An instruction keeps the invariant: every target it loads into pc is even, every store lists an ordinary location. -/
theorem State.Inv.of_exec (h : s.Inv) {i : Instr} (he : exec i s = .next t) : t.Inv := by
  rcases exec_cases he with ⟨-, dr, v, rfl⟩ | ⟨dr, _, _, -, -, rfl⟩ | ⟨_, _, _, -, ha, rfl⟩ | ⟨_, _, _, -, ho, ha, rfl⟩ |
    ⟨_, _, _, _, -, -, hd⟩ | ⟨_, _, _, _, -, rfl⟩ | ⟨_, -, ho, rfl⟩ | ⟨_, -, rfl⟩ | ⟨_, -, ho, rfl⟩ | ⟨_, -, ho, rfl⟩ | ⟨-, hr⟩
  · exact h.writeResult dr v
  · exact (h.of_mem_eq rfl h.isOdd_pc : (s.withKbReady false).Inv).writeResult dr _
  · exact h.storeByte ha _
  · exact h.storeWord ha ((isOdd_wordAddress _ _).trans ho) _
  · exact h.of_writeDevice hd
  · split
    · exact h.withPC ((isOdd_pcRelative9 _ _).trans h.isOdd_pc)
    · exact h
  · exact h.withPC ho
  · exact h.linkAndJump _ ((isOdd_pcRelative11 _ _).trans h.isOdd_pc)
  · exact h.linkAndJump _ ho
  · exact h.linkAndJump _ ho
  · exact h.of_returnFromInterrupt hr

theorem State.Inv.of_step (h : s.Inv) (hs : step s = .next t) : t.Inv := by
  rcases step_cases hs with ⟨-, rfl⟩ | ⟨-, -, hi⟩ | ⟨i, -, -, he⟩
  · exact h
  · exact h.atBoundary.of_initiateInterrupt hi
  · exact h.atBoundary.advancePC.of_exec he

end

/-- Settles O50, by the cases of a step and, for an instruction, the shapes of `exec_cases`. -/
theorem stepKeepsMemoryCanonicalAndPcEven : Obligations.StepKeepsMemoryCanonicalAndPcEven :=
  fun _ _ h hs => h.of_step hs

end Sys2Proof.Machine
end

section
/-! SUPPORT. What an instruction leaves as it was: the condition codes by the figures' marks, and the stack pointer the mode does not select
(10_state.md rules R21, R26). -/

namespace Sys2Proof.Machine

/-- A frame that names no written register is a frame for every list of them. -/
theorem SameRegsExcept.of_nil {s t : State} (h : SameRegsExcept s t []) (written : List Reg) : SameRegsExcept s t written where
  regs := fun r _ => h.regs r List.not_mem_nil
  idle := h.idle
  mode := h.mode

section
variable {s t : State}

/-! The frames of Safety.lean, as far as an unmarked instruction other than RTI needs them: at most R7 is written, no condition code is. -/

theorem SameProcessor.frame (h : SameProcessor s t) : SameRegsExcept s t [.r7] ∧ SameCC s t :=
  ⟨h.regs.of_nil _, h.cc⟩

theorem JumpsTo.frame {target : Word} (h : JumpsTo s t target) : SameRegsExcept s t [.r7] ∧ SameCC s t :=
  ⟨h.regs.of_nil _, h.cc⟩

theorem CallsTo.frame {target : Word} (h : CallsTo s t target) : SameRegsExcept s t [.r7] ∧ SameCC s t :=
  ⟨h.regs, h.cc⟩

end

/-- What an instruction can do to the registers and the condition codes: write a result, where it is marked; leave the condition codes and all
registers but the linkage register, where it is not; or return from an interrupt. -/
theorem exec_result_frame_or_return {i : Instr} {s t : State} (h : exec i s = .next t) :
    (i.setsCC = true ∧ ∃ dr v u, (u = s ∨ u = s.withKbReady false) ∧ t = writeResult dr v u) ∨
    (i.setsCC = false ∧ SameRegsExcept s t [.r7] ∧ SameCC s t) ∨
    (i = .rti ∧ returnFromInterrupt s = .next t) := by
  rcases exec_cases h with ⟨hcc, dr, v, rfl⟩ | ⟨dr, _, _, rfl, -, rfl⟩ | ⟨_, _, _, rfl, -, rfl⟩ | ⟨_, _, _, rfl, -, -, rfl⟩ |
    ⟨_, _, _, _, rfl, -, hd⟩ | ⟨_, _, _, _, rfl, rfl⟩ | ⟨_, hi, -, rfl⟩ | ⟨_, rfl, rfl⟩ | ⟨_, rfl, -, rfl⟩ | ⟨_, rfl, -, rfl⟩ |
    ⟨rfl, hr⟩
  · exact .inl ⟨hcc, dr, v, s, .inl rfl, rfl⟩
  · exact .inl ⟨rfl, dr, _, _, .inr rfl, rfl⟩
  · exact .inr (.inl ⟨rfl, (sameProcessor_withMem s _).frame⟩)
  · exact .inr (.inl ⟨rfl, (sameProcessor_withMem s _).frame⟩)
  · exact .inr (.inl ⟨rfl, (writeDevice_sameProcessor hd).frame⟩)
  · refine .inr (.inl ⟨rfl, ?_⟩)
    split
    · exact (jumpsTo_withPC s _).frame
    · exact ⟨⟨fun _ _ => rfl, rfl, rfl⟩, ⟨rfl, rfl, rfl⟩⟩
  · have hcc : i.setsCC = false := by rcases hi with rfl | ⟨rfl, -⟩ <;> rfl
    exact .inr (.inl ⟨hcc, (jumpsTo_withPC s _).frame⟩)
  · exact .inr (.inl ⟨rfl, (callsTo_linkAndJump s _).frame⟩)
  · exact .inr (.inl ⟨rfl, (callsTo_linkAndJump s _).frame⟩)
  · exact .inr (.inl ⟨rfl, (callsTo_linkAndJump s _).frame⟩)
  · exact .inr (.inr ⟨rfl, hr⟩)

/-- Settles O15: a result leaves one code set, and the frame of the unmarked instructions holds the codes. -/
theorem conditionCodesChangeOnlyByMarkedInstructions : Obligations.ConditionCodesChangeOnlyByMarkedInstructions := by
  intro i s t h
  rcases exec_result_frame_or_return h with ⟨hcc, dr, v, u, -, rfl⟩ | ⟨hcc, -, hsame⟩ | ⟨rfl, -⟩
  · exact ⟨fun _ => oneHot_setcc v _, fun hn => absurd (hcc.symm.trans hn) (by decide)⟩
  · exact ⟨fun hy => absurd (hcc.symm.trans hy) (by decide), fun _ _ => hsame⟩
  · exact ⟨fun hy => absurd hy (by decide), fun _ hne => absurd rfl hne⟩

/-- The idle stack pointer under an unchanged mode, in the terms of the two modes. -/
theorem unselected_of_idleSP_eq {s t : State} (hmode : t.mode = s.mode) (hidle : idleSP t = idleSP s) :
    (s.mode = .supervisor → t.usp = s.usp) ∧ (s.mode = .user → t.ssp = s.ssp) := by
  constructor <;> intro hm <;> simpa [idleSP, hmode, hm] using hidle

/-- Settles O56: a result or a frame keeps the idle stack pointer, and RTI runs in supervisor mode and writes SSP only. -/
theorem unselectedStackPointerIsKept : Obligations.UnselectedStackPointerIsKept := by
  intro i s t h
  rcases exec_result_frame_or_return h with ⟨-, dr, v, u, hu, rfl⟩ | ⟨-, hregs, -⟩ | ⟨-, hr⟩
  · have hres := (writesResult_writeResult u dr v).regs
    rcases hu with rfl | rfl
    · exact unselected_of_idleSP_eq hres.mode hres.idle
    · exact unselected_of_idleSP_eq hres.mode hres.idle
  · exact unselected_of_idleSP_eq hregs.mode hregs.idle
  · obtain ⟨hsup, -, -, -, -, rfl⟩ := returnFromInterrupt_eq_next.1 hr
    exact ⟨fun _ => rfl, fun huser => absurd (hsup.symm.trans huser) (by decide)⟩

end Sys2Proof.Machine
end

section
/-! SUPPORT. The step of a stopped and of a running processor as equations, and the word `withFetchWord` places (10_state.md rules R23, R32, log 7, 8). -/

namespace Sys2Proof.Machine

theorem step_of_stopped {s : State} (h : s.clock = false) : step s = .next s := by
  simp [step, h]

/-- Settles O42, the first test of a step. -/
theorem stoppedProcessorChangesNothing : Obligations.StoppedProcessorChangesNothing := fun _ => step_of_stopped

theorem step_of_fetchesAt {s b : State} (h : FetchesAt s b) :
    step s = andThen (fetchInstr b) fun i => exec i (advancePC b) := by
  obtain ⟨hclock, rfl, hquiet⟩ := h
  simp [step, hclock, hquiet]

/-- Settles O40: the step is the fetch and then `exec`, and the fetch reads the word of Safety.lean. -/
theorem stepRunsTheDecodedInstruction : Obligations.StepRunsTheDecodedInstruction := by
  intro s b i hfetch hodd hregion hdecode
  rw [← Memory.getWord_eq_wordAt] at hdecode
  have hi : fetchInstr b = .next i := fetchInstr_eq_next.2 ⟨hregion, hodd, hdecode⟩
  rw [step_of_fetchesAt hfetch, hi, andThen_next]
  rfl

/-! ### A word placed where the next step fetches it -/

/-- The two bytes of a row of the opcode table are the bytes of its word. -/
theorem decodeWord_of_decodeTableWord {w : Nat} {i : Instr} (h : decodeTableWord 16 w = some i) :
    decodeWord .strict (BitVec.ofNat 16 (w % 2 ^ 16)) = .ok i := by
  have hbytes : wordOfBytes (BitVec.ofNat 8 (w % 2 ^ 16)) (BitVec.ofNat 8 (w % 2 ^ 16 / 256)) = BitVec.ofNat 16 (w % 2 ^ 16) := by
    have hword := wordOfBytes_bytes (BitVec.ofNat 16 (w % 2 ^ 16))
    rw [highByte_eq, ← lowByte, lowByte_eq, BitVec.toNat_ofNat, Nat.mod_mod] at hword
    exact hword
  simp only [decodeTableWord, tableBytes, decodeBytes, hbytes] at h
  cases hd : decodeWord Config.sbzPolicy (BitVec.ofNat 16 (w % 2 ^ 16)) with
  | ok j =>
    rw [hd] at h
    exact hd.trans (congrArg Except.ok (Option.some.inj h))
  | error e =>
    rw [hd] at h
    cases h

section
variable (s : State) (nbits w : Nat)

@[simp] theorem withFetchWord_pc : (s.withFetchWord nbits w).pc = s.pc := rfl

@[simp] theorem withFetchWord_clock : (s.withFetchWord nbits w).clock = true := rfl

theorem withFetchWord_mem {s : State} (h : inDeviceRegion s.pc = false) :
    (s.withFetchWord nbits w).mem = s.mem.setWord s.pc (BitVec.ofNat 16 (w % 2 ^ nbits)) := by
  simp [State.withFetchWord, h]

/-- No device event happens at the boundary that `withFetchWord` prepares. -/
theorem withFetchWord_quiet : (s.withFetchWord nbits w).schedule.head? = some [] ∨ (s.withFetchWord nbits w).schedule = [] := by
  cases hs : s.schedule <;> simp [State.withFetchWord, hs]

/-- IE is cleared exactly where the interrupt would be initiated, so it is not. -/
theorem withFetchWord_not_interruptTaken : interruptTaken Config.supervisorInterruptible (s.withFetchWord nbits w) = false := by
  have htaken : interruptTaken Config.supervisorInterruptible (s.withFetchWord nbits w) =
      ((s.kbReady && (s.kbIE && !interruptTaken Config.supervisorInterruptible s)) && (s.mode.bit || Config.supervisorInterruptible)) := rfl
  rw [htaken]
  cases h : interruptTaken Config.supervisorInterruptible s with
  | true => simp
  | false => simpa [interruptTaken, interruptRequest] using h

theorem fetchesAt_withFetchWord : FetchesAt (s.withFetchWord nbits w) (atBoundary (s.withFetchWord nbits w)) := by
  refine ⟨withFetchWord_clock s nbits w, rfl, ?_⟩
  rw [atBoundary_of_quiet _ (withFetchWord_quiet s nbits w)]
  exact withFetchWord_not_interruptTaken s nbits w

end

/-- Settles O49: the prepared state fetches, and the word at its pc is the placed one. -/
theorem placedWordIsRunByTheNextStep : Obligations.PlacedWordIsRunByTheNextStep := by
  intro s w i hwf hodd hregion hdecode
  refine ⟨_, rfl, ?_⟩
  have hpc : (atBoundary (s.withFetchWord 16 w)).pc = s.pc := by simp
  have hword : wordAt (atBoundary (s.withFetchWord 16 w)).mem s.pc = BitVec.ofNat 16 (w % 2 ^ 16) := by
    rw [atBoundary_mem, withFetchWord_mem 16 w hregion, wordAt_setWord hwf]
  have hstep := stepRunsTheDecodedInstruction _ _ i (fetchesAt_withFetchWord s 16 w)
  rw [hpc, hword] at hstep
  exact hstep hodd hregion (decodeWord_of_decodeTableWord hdecode)

end Sys2Proof.Machine
end

section
/-! SUPPORT. The words the machine forms of the PSR and of the device registers, and the values at the start of a run (10_state.md rules R28, R34). -/

namespace Sys2Proof.Machine

/-! ### Undefined bits: a mask is split into the parts of the word, and each part of either is zero -/

theorem append_and_append_eq_zero {m n : Nat} {x a : BitVec m} {y b : BitVec n} (hx : x &&& a = 0#m) (hy : y &&& b = 0#n) :
    (x ++ y) &&& (a ++ b) = 0#(m + n) := by
  rw [BitVec.and_append, hx, hy, BitVec.zero_append_zero]

theorem psr_and_undefined (s : State) : s.psr &&& 0x7FF8#16 = 0#16 :=
  have hmode : (BitVec.ofBool s.mode.bit ++ 0#12) &&& (0#1 ++ 0xFFF#12) = 0#13 :=
    append_and_append_eq_zero BitVec.and_zero BitVec.zero_and
  append_and_append_eq_zero (b := 0#1)
    (append_and_append_eq_zero (b := 0#1) (append_and_append_eq_zero (b := 0#1) hmode BitVec.and_zero) BitVec.and_zero)
    BitVec.and_zero

theorem kbsrWord_and_undefined (s : State) : s.kbsrWord &&& 0x3FFF#16 = 0#16 :=
  append_and_append_eq_zero (a := 0#2) (b := 0x3FFF#14) BitVec.and_zero BitVec.zero_and

theorem kbdrWord_and_undefined (s : State) : s.kbdrWord &&& 0xFF00#16 = 0#16 :=
  append_and_append_eq_zero (a := 0xFF#8) (b := 0#8) BitVec.zero_and BitVec.and_zero

/-- DSR and MCR have one defined bit, bit 15. -/
theorem bit15_and_undefined (b : Bool) : (BitVec.ofBool b ++ 0#15) &&& 0x7FFF#16 = 0#16 :=
  append_and_append_eq_zero (a := 0#1) (b := 0x7FFF#15) BitVec.and_zero BitVec.zero_and

/-- Settles O53, register by register. -/
theorem undefinedBitsReadAsZero : Obligations.UndefinedBitsReadAsZero := fun s =>
  ⟨psr_and_undefined s, kbsrWord_and_undefined s, kbdrWord_and_undefined s, bit15_and_undefined s.dsrReady,
    bit15_and_undefined s.clock⟩

/-! ### The start of a run -/

theorem kbsrWord_eq_zero {s : State} (hready : s.kbReady = false) (hie : s.kbIE = false) : s.kbsrWord = 0#16 := by
  rw [State.kbsrWord, hready, hie]
  rfl

theorem kbdrWord_eq_zero {s : State} (hchar : s.kbdr = 0#8) : s.kbdrWord = 0#16 := by
  rw [State.kbdrWord, hchar]
  rfl

/-- DSR as the word of its one defined bit. -/
theorem dsrWord_eq_bit15Word (s : State) : s.dsrWord = bit15Word s.dsrReady := by
  unfold State.dsrWord
  cases s.dsrReady <;> rfl

/-- MCR as the word of its one defined bit. -/
theorem mcrWord_eq_bit15Word (s : State) : s.mcrWord = bit15Word s.clock := by
  unfold State.mcrWord
  cases s.clock <;> rfl

/-- Settles O52: the fields are the parameters by definition, the device registers and the PSR go by the lemmas on their words. -/
theorem launchTakesTheTableOfResetValues : Obligations.LaunchTakesTheTableOfResetValues := by
  refine ⟨rfl, fun l => ?_⟩
  exact ⟨rfl, rfl, rfl, rfl, rfl, rfl, rfl, rfl, rfl, rfl, rfl, rfl, rfl, rfl, rfl, rfl, rfl, rfl, kbsrWord_eq_zero rfl rfl,
    kbdrWord_eq_zero rfl, mcrWord_eq_bit15Word _, dsrWord_eq_bit15Word _, psr_and_undefined _⟩

end Sys2Proof.Machine
end

section
/-! SUPPORT. The memory instructions and the fetch as equations: what an access to the device region answers, what one to ordinary memory
answers, and the statements about both (20_memory.md rules R40 to R49). -/

namespace Sys2Proof.Machine

/-! ### Accesses to the device region (20_memory.md rules R44, R46) -/

section
variable {a : Word} (s : State) (v : Word)

theorem readByte_of_device (h : inDeviceRegion a = true) : readByte s a = .refused .unmappedIO := by
  simp [readByte, h]

theorem writeByte_of_device (h : inDeviceRegion a = true) (b : Byte) : writeByte s a b = .refused .unmappedIO := by
  simp [writeByte, h]

theorem readMemWord_of_device (h : inDeviceRegion a = true) : readMemWord s a = .refused .unmappedIO := by
  simp [readMemWord, h]

theorem loadWord_address (d : DeviceReg) : loadWord s d.address = readDevice d s := by
  simp [loadWord]

theorem storeWord_address (d : DeviceReg) : storeWord s d.address v = writeDevice d v s := by
  simp [storeWord]

theorem deviceAt_eq_none : deviceAt a = none ↔ ∀ d : DeviceReg, a ≠ d.address := by
  simp only [Option.eq_none_iff_forall_ne_some, ne_eq, deviceAt_eq_some]

theorem loadWord_of_unassigned (h : inDeviceRegion a = true) (hd : deviceAt a = none) : loadWord s a = .refused .unmappedIO := by
  simp [loadWord, h, hd]

theorem storeWord_of_unassigned (h : inDeviceRegion a = true) (hd : deviceAt a = none) :
    storeWord s a v = .refused .unmappedIO := by
  simp [storeWord, h, hd]

end

/-! ### The memory instructions over their accesses (41_data_movement.md) -/

section
variable (s : State) (r base : Reg) (off : BitVec 6)

theorem exec_ldb : exec (.ldb r base off) s =
    andThen (readByte s (byteAddress (getReg s base) off)) fun b => .next (writeResult r (sext b) s) := rfl

theorem exec_stb : exec (.stb r base off) s = writeByte s (byteAddress (getReg s base) off) (lowByte (getReg s r)) := rfl

variable {s base}

theorem exec_ldw_of_even (h : isOdd (getReg s base) = false) : exec (.ldw r base off) s =
    andThen (loadWord s (wordAddress (getReg s base) off)) fun l => .next (writeResult r l.1 l.2) := by
  show faultIf (isOdd (getReg s base)) _ _ = _
  rw [h, faultIf_false]

theorem exec_stw_of_even (h : isOdd (getReg s base) = false) : exec (.stw r base off) s =
    storeWord s (wordAddress (getReg s base) off) (getReg s r) := by
  show faultIf (isOdd (getReg s base)) _ _ = _
  rw [h, faultIf_false]

/-! LDB, LDW and STW at an address of ordinary memory. -/

theorem exec_ldb_of_ordinary {a : Word} (ha : byteAddress (getReg s base) off = a) (h : inDeviceRegion a = false) :
    exec (.ldb r base off) s = .next (writeResult r (sext (s.mem.get a.toNat)) s) := by
  rw [exec_ldb, ha, readByte_eq_next.2 ⟨h, rfl⟩, andThen_next]

theorem exec_ldw_of_ordinary (he : isOdd (getReg s base) = false) (h : inDeviceRegion (wordAddress (getReg s base) off) = false) :
    exec (.ldw r base off) s = .next (writeResult r (wordAt s.mem (wordAddress (getReg s base) off)) s) := by
  rw [exec_ldw_of_even r off he, loadWord_eq_next.2 (.inl ⟨h, rfl, rfl⟩), andThen_next, Memory.getWord_eq_wordAt]

theorem exec_stw_of_ordinary (he : isOdd (getReg s base) = false) (h : inDeviceRegion (wordAddress (getReg s base) off) = false) :
    exec (.stw r base off) s = .next (s.withMem (s.mem.setWord (wordAddress (getReg s base) off) (getReg s r))) := by
  rw [exec_stw_of_even r off he, storeWord_eq_next.2 (.inl ⟨h, rfl⟩)]

/-- A STW to ordinary memory that does not stop had an even base register and wrote its word there. -/
theorem eq_of_exec_stw_ordinary {t : State} (h : inDeviceRegion (wordAddress (getReg s base) off) = false)
    (ht : exec (.stw r base off) s = .next t) : isOdd (getReg s base) = false ∧
      t = s.withMem (s.mem.setWord (wordAddress (getReg s base) off) (getReg s r)) := by
  obtain ⟨he, -⟩ := faultIf_eq_next.1 ht
  rw [exec_stw_of_ordinary r off he h, Host.Outcome.next.injEq] at ht
  exact ⟨he, ht.symm⟩

end

/-- Settles O24: both forms are refused by their byte access. -/
theorem byteAccessToDeviceRegionIsRefused : Obligations.ByteAccessToDeviceRegionIsRefused := by
  intro r base boffset6 s h
  rw [exec_ldb, exec_stb, readByte_of_device s h, writeByte_of_device s h]
  exact ⟨rfl, rfl⟩

/-- Settles O25: the access is `readDevice` or `writeDevice` at a device register, and refused at every other address of the region. -/
theorem wordAccessRefusalsInDeviceRegion : Obligations.WordAccessRefusalsInDeviceRegion := by
  intro r base offset6 s ea heven hea
  rw [exec_ldw_of_even r offset6 heven, exec_stw_of_even r offset6 heven, ← hea]
  refine ⟨fun hregion hassigned => ?_, ?_, ?_, ?_⟩
  · have hin : inDeviceRegion ea = true := decide_eq_true hregion
    have hnone : deviceAt ea = none := deviceAt_eq_none.2 fun d hd => hassigned (by rw [hd]; cases d <;> decide)
    rw [loadWord_of_unassigned s hin hnone, storeWord_of_unassigned s _ hin hnone]
    exact ⟨rfl, rfl⟩
  · rintro rfl
    rw [show 0xFE06#16 = DeviceReg.ddr.address from rfl, loadWord_address]
    rfl
  · rintro (rfl | rfl)
    · exact storeWord_address s _ .kbdr
    · exact storeWord_address s _ .dsr
  · rintro rfl hbusy
    rw [show 0xFE06#16 = DeviceReg.ddr.address from rfl, storeWord_address]
    simp [writeDevice, hbusy]

/-! ### Where the fetch stops (20_memory.md rule R42) -/

section
variable {s : State}

theorem fetchInstr_of_device (h : inDeviceRegion s.pc = true) : fetchInstr s = .refused .unmappedIO := by
  rw [fetchInstr, readMemWord_of_device s h, andThen_refused]

theorem fetchInstr_of_odd (h : inDeviceRegion s.pc = false) (ho : isOdd s.pc = true) : fetchInstr s = .fault .unalignedPC := by
  rw [fetchInstr, readMemWord_eq_next.2 ⟨h, rfl⟩, andThen_next, ho, faultIf_true]

theorem fetchInstr_of_rejected (h : inDeviceRegion s.pc = false) (ho : isOdd s.pc = false) {e : DecodeReject}
    (hd : decodeWord .strict (wordAt s.mem s.pc) = .error e) :
    fetchInstr s = .fault (.reservedEncoding (wordAt s.mem s.pc)) := by
  rw [fetchInstr, readMemWord_eq_next.2 ⟨h, rfl⟩, andThen_next, ho, faultIf_false, Memory.getWord_eq_wordAt, Config.sbzPolicy, hd]

end

/-- Settles O41: the step stops as its fetch does. -/
theorem fetchStops : Obligations.FetchStops := by
  intro s b hfetch
  rw [step_of_fetchesAt hfetch]
  refine ⟨fun h => ?_, fun h ho => ?_, fun h ho e hd => ?_⟩
  · rw [fetchInstr_of_device h, andThen_refused]
  · rw [fetchInstr_of_odd h ho, andThen_fault]
  · rw [fetchInstr_of_rejected h ho hd, andThen_fault]

/-! ### The laws of memory, and reads after a word store (20_memory.md rules R40, R41, R43, R49) -/

/-- Settles O54, by the laws of the memory list. -/
theorem memoryReadsDetermineCanonicalMemory : Obligations.MemoryReadsDetermineCanonicalMemory := by
  refine ⟨fun m n hm hn hread => Memory.ext_of_wfFrom hm hn hread, fun m k v hm => ⟨Memory.set_wf hm k v, ?_, fun a ha => ?_⟩⟩
  · rw [Memory.get_set hm, if_pos rfl]
  · rw [Memory.get_set hm, if_neg ha]

section
variable {m : Memory} (h : m.wf = true) (a v : Word)
include h

theorem Memory.get_setWord_low : (m.setWord a v).get a.toNat = v.extractLsb' 0 8 := by
  rw [Memory.get_setWord h, if_neg (by omega), if_pos rfl]

theorem Memory.get_setWord_high : (m.setWord a v).get (a.toNat + 1) = v.extractLsb' 8 8 := by
  rw [Memory.get_setWord h, if_pos rfl]

end

/-- The high byte of a word, sign-extended, is the word shifted right by eight with its sign. -/
theorem sext_highByte (v : Word) : sext (v.extractLsb' 8 8) = v.sshiftRight 8 := by
  apply BitVec.eq_of_getLsbD_eq
  intro i hi
  simp only [sext, BitVec.getLsbD_signExtend, BitVec.getLsbD_sshiftRight, BitVec.getLsbD_extractLsb', BitVec.msb_eq_getLsbD_last]
  by_cases h8 : i < 8
  · have hin : 8 + i < 16 := by omega
    simp [h8, hi, hin]
  · have hout : ¬ 8 + i < 16 := by omega
    simp [h8, hi, hout]

/-- The second byte of an aligned word of ordinary memory is at the next address, with no wrap. -/
theorem toNat_succ_of_even {a : Word} (h : inDeviceRegion a = false) (ho : isOdd a = false) : (a + 1#16).toNat = a.toNat + 1 := by
  have hlt := succ_ordinary_of_even h ho
  rw [BitVec.toNat_add, BitVec.toNat_ofNat]
  omega

theorem inDeviceRegion_succ_of_even {a : Word} (h : inDeviceRegion a = false) (ho : isOdd a = false) :
    inDeviceRegion (a + 1#16) = false := by
  have hlt := succ_ordinary_of_even h ho
  rw [inDeviceRegion, toNat_succ_of_even h ho]
  exact decide_eq_false (by omega)

/-- Settles O26: the state after the store is known, and each load reads its memory at a byte or at the word just written. -/
theorem loadsSeeTheBytesOfAnEarlierWordStore : Obligations.LoadsSeeTheBytesOfAnEarlierWordStore := by
  intro sr base offset6 s t hwf hregion hstore
  obtain ⟨heven, rfl⟩ := eq_of_exec_stw_ordinary sr offset6 hregion hstore
  have hea : isOdd (wordAddress (getReg s base) offset6) = false := (isOdd_wordAddress _ _).trans heven
  refine ⟨fun dr => ?_, fun dr b boffset6 hb => ?_, fun dr b boffset6 hb => ?_⟩
  · refine ⟨_, exec_ldw_of_ordinary dr offset6 (by rwa [getReg_withMem]) (by rwa [getReg_withMem]), ?_⟩
    rw [(writesResult_writeResult _ dr _).result, getReg_withMem, State.withMem_mem, wordAt_setWord hwf]
  · refine ⟨_, exec_ldb_of_ordinary dr boffset6 hb hregion, ?_⟩
    rw [(writesResult_writeResult _ dr _).result, State.withMem_mem, Memory.get_setWord_low hwf]
    rfl
  · refine ⟨_, exec_ldb_of_ordinary dr boffset6 hb (inDeviceRegion_succ_of_even hregion hea), ?_⟩
    rw [(writesResult_writeResult _ dr _).result, State.withMem_mem, toNat_succ_of_even hregion hea, Memory.get_setWord_high hwf,
      sext_highByte]

theorem atBoundary_of_schedule_nil {s : State} (h : s.schedule = []) : atBoundary s = s := by
  rw [atBoundary, h]

/-- A change of memory alone leaves the state of a quiet boundary ready to fetch. -/
theorem fetchesAt_withMem {s : State} (hclock : s.clock = true) (hschedule : s.schedule = [])
    (hquiet : interruptTaken Config.supervisorInterruptible s = false) (m : Memory) : FetchesAt (s.withMem m) (s.withMem m) :=
  ⟨hclock, atBoundary_of_schedule_nil hschedule, hquiet⟩

/-- Settles O48: the state after the store fetches at the address just written. -/
theorem nextFetchSeesTheStoredWord : Obligations.NextFetchSeesTheStoredWord := by
  intro s sr base offset6 i hwf hclock hschedule hquiet hodd hregion haddr hdecode
  have heven : isOdd (getReg s base) = false := by rw [← isOdd_wordAddress _ offset6, haddr, hodd]
  refine ⟨_, exec_stw_of_ordinary sr offset6 heven (by rw [haddr]; exact hregion), ?_⟩
  refine stepRunsTheDecodedInstruction _ _ i (fetchesAt_withMem hclock hschedule hquiet _) hodd hregion ?_
  rw [State.withMem_mem, State.withMem_pc, haddr, wordAt_setWord hwf, hdecode]

/-! ### Only stores change memory (20_memory.md rule R47) -/

/-- An instruction that is no store leaves memory the same list: every other shape of change of `exec_cases` keeps it. -/
theorem exec_mem_of_not_store {i : Instr} {s t : State} (h : exec i s = .next t)
    (hstb : ∀ sr base off, i ≠ .stb sr base off) (hstw : ∀ sr base off, i ≠ .stw sr base off) : t.mem = s.mem := by
  rcases exec_cases h with ⟨-, dr, v, rfl⟩ | ⟨dr, _, _, -, -, rfl⟩ | ⟨_, _, _, hi, -⟩ | ⟨_, _, _, hi, -⟩ | ⟨_, _, _, _, hi, -⟩ |
    ⟨_, _, _, _, -, rfl⟩ | ⟨_, -, -, rfl⟩ | ⟨_, -, rfl⟩ | ⟨_, -, -, rfl⟩ | ⟨_, -, -, rfl⟩ | ⟨-, hr⟩
  · exact writeResult_mem dr v s
  · exact writeResult_mem dr _ _
  · exact absurd hi (hstb _ _ _)
  · exact absurd hi (hstw _ _ _)
  · exact absurd hi (hstw _ _ _)
  · split <;> rfl
  · rfl
  · exact linkAndJump_mem s _ _
  · exact linkAndJump_mem s _ _
  · exact linkAndJump_mem s _ _
  · obtain ⟨-, -, -, -, -, rfl⟩ := returnFromInterrupt_eq_next.1 hr
    rfl

/-- Settles O58: the step executes the instruction its word decodes to, on the memory the boundary and the fetch left alone. -/
theorem onlyStoresChangeMemory : Obligations.OnlyStoresChangeMemory := by
  refine ⟨fun _ _ _ h hstb hstw => exec_mem_of_not_store h hstb hstw, fun i s b t hfetch hdecode hstb hstw hstep => ?_⟩
  rw [step_of_fetchesAt hfetch] at hstep
  obtain ⟨j, hj, hexec⟩ := andThen_eq_next.1 hstep
  obtain ⟨-, -, hdecoded⟩ := fetchInstr_eq_next.1 hj
  rw [Memory.getWord_eq_wordAt] at hdecoded
  obtain rfl : i = j := Except.ok.inj (hdecode.symm.trans hdecoded)
  obtain ⟨-, rfl, -⟩ := hfetch
  calc t.mem = (advancePC (atBoundary s)).mem := exec_mem_of_not_store hexec hstb hstw
    _ = s.mem := by rw [advancePC_mem, atBoundary_mem]

end Sys2Proof.Machine
end

section
/-! SUPPORT. A word and its fields: each format of 30_encoding.md rules R61 to R68 as the list of the fields that spell it. -/

namespace Sys2Proof

/-! ### A word taken apart into fields -/

/-- A field cut in two: its high part and its low part (00_scope.md rule R5). -/
theorem field_eq_append_iff {w : Word} {lo n m : Nat} {x : BitVec n} {y : BitVec m} :
    field w lo (n + m) = x ++ y ↔ field w (lo + m) n = x ∧ field w lo m = y := by
  have hcut : field w lo (n + m) = field w (lo + m) n ++ field w lo m :=
    (BitVec.extractLsb'_append_extractLsb'_eq_extractLsb' rfl).symm
  rw [hcut]
  constructor
  · intro h
    exact ⟨by simpa only [BitVec.extractLsb'_append_eq_left] using congrArg (BitVec.extractLsb' m n) h,
      by simpa only [BitVec.extractLsb'_append_eq_right] using congrArg (BitVec.extractLsb' 0 m) h⟩
  · rintro ⟨rfl, rfl⟩
    rfl

/-- The field of all sixteen bits is the word. -/
theorem eq_iff_field_eq {w v : Word} : w = v ↔ field w 0 16 = v := by
  rw [field, BitVec.extractLsb'_eq_self]

theorem regField_eq_iff {w : Word} {lo : Nat} {r : Reg} : regField w lo = r ↔ field w lo 3 = r.bits := by
  refine ⟨fun h => ?_, fun h => ?_⟩
  · rw [← h, regField, Reg.bits_ofBits]
  · rw [regField, h, Reg.ofBits_bits]

/-! ### The formats as fields (30_encoding.md rules R61 to R68) -/

section
variable {w : Word} {op : BitVec 4} {dr sr1 sr2 base : Reg}

theorem eq_formatR3_iff : w = formatR3 op dr sr1 sr2 ↔
    field w 12 4 = op ∧ regField w 9 = dr ∧ regField w 6 = sr1 ∧ field w 5 1 = 0#1 ∧ field w 3 2 = 0#2 ∧ regField w 0 = sr2 := by
  rw [eq_iff_field_eq]
  change field w 0 (4 + 3 + 3 + (1 + 2) + 3) = op ++ dr.bits ++ sr1.bits ++ (0#1 ++ 0#2) ++ sr2.bits ↔ _
  simp only [field_eq_append_iff, regField_eq_iff, and_assoc]

theorem eq_formatRI_iff {imm5 : BitVec 5} : w = formatRI op dr sr1 imm5 ↔
    field w 12 4 = op ∧ regField w 9 = dr ∧ regField w 6 = sr1 ∧ field w 5 1 = 1#1 ∧ field w 0 5 = imm5 := by
  rw [eq_iff_field_eq]
  change field w 0 (4 + 3 + 3 + 1 + 5) = op ++ dr.bits ++ sr1.bits ++ 1#1 ++ imm5 ↔ _
  simp only [field_eq_append_iff, regField_eq_iff, and_assoc]

theorem eq_formatM_iff {off : BitVec 6} : w = formatM op dr base off ↔
    field w 12 4 = op ∧ regField w 9 = dr ∧ regField w 6 = base ∧ field w 0 6 = off := by
  rw [eq_iff_field_eq]
  change field w 0 (4 + 3 + 3 + 6) = op ++ dr.bits ++ base.bits ++ off ↔ _
  simp only [field_eq_append_iff, regField_eq_iff, and_assoc]

theorem eq_formatSH_iff {a d : BitVec 1} {amount4 : BitVec 4} : w = formatSH (a ++ d) dr sr1 amount4 ↔
    field w 12 4 = 0b1101#4 ∧ regField w 9 = dr ∧ regField w 6 = sr1 ∧ field w 5 1 = a ∧ field w 4 1 = d ∧ field w 0 4 = amount4 := by
  rw [eq_iff_field_eq]
  change field w 0 (4 + 3 + 3 + (1 + 1) + 4) = 0b1101#4 ++ dr.bits ++ sr1.bits ++ (a ++ d) ++ amount4 ↔ _
  simp only [field_eq_append_iff, regField_eq_iff, and_assoc]

theorem eq_encode_br_iff {n z p : Bool} {off : BitVec 9} : w = encode (.br n z p off) ↔
    field w 12 4 = 0b0000#4 ∧ field w 11 1 = BitVec.ofBool n ∧ field w 10 1 = BitVec.ofBool z ∧ field w 9 1 = BitVec.ofBool p ∧
      field w 0 9 = off := by
  rw [eq_iff_field_eq]
  change field w 0 (4 + 1 + 1 + 1 + 9) = 0b0000#4 ++ BitVec.ofBool n ++ BitVec.ofBool z ++ BitVec.ofBool p ++ off ↔ _
  simp only [field_eq_append_iff, and_assoc]

theorem eq_encode_jmp_iff : w = encode (.jmp base) ↔
    field w 12 4 = 0b1100#4 ∧ field w 9 3 = 0#3 ∧ regField w 6 = base ∧ field w 0 6 = 0#6 := by
  rw [eq_iff_field_eq]
  change field w 0 (4 + 3 + 3 + 6) = 0b1100#4 ++ 0#3 ++ base.bits ++ 0#6 ↔ _
  simp only [field_eq_append_iff, regField_eq_iff, and_assoc]

theorem eq_encode_jsr_iff {off : BitVec 11} : w = encode (.jsr off) ↔
    field w 12 4 = 0b0100#4 ∧ field w 11 1 = 1#1 ∧ field w 0 11 = off := by
  rw [eq_iff_field_eq]
  change field w 0 (4 + 1 + 11) = 0b0100#4 ++ 1#1 ++ off ↔ _
  simp only [field_eq_append_iff, and_assoc]

theorem eq_encode_jsrr_iff : w = encode (.jsrr base) ↔
    field w 12 4 = 0b0100#4 ∧ field w 11 1 = 0#1 ∧ field w 9 2 = 0#2 ∧ regField w 6 = base ∧ field w 0 6 = 0#6 := by
  rw [eq_iff_field_eq]
  change field w 0 (4 + 1 + 2 + 3 + 6) = 0b0100#4 ++ 0#1 ++ 0#2 ++ base.bits ++ 0#6 ↔ _
  simp only [field_eq_append_iff, regField_eq_iff, and_assoc]

theorem eq_encode_lea_iff {off : BitVec 9} : w = encode (.lea dr off) ↔
    field w 12 4 = 0b1110#4 ∧ regField w 9 = dr ∧ field w 0 9 = off := by
  rw [eq_iff_field_eq]
  change field w 0 (4 + 3 + 9) = 0b1110#4 ++ dr.bits ++ off ↔ _
  simp only [field_eq_append_iff, regField_eq_iff, and_assoc]

theorem eq_encode_trap_iff {v : BitVec 8} : w = encode (.trap v) ↔
    field w 12 4 = 0b1111#4 ∧ field w 8 4 = 0#4 ∧ field w 0 8 = v := by
  rw [eq_iff_field_eq]
  change field w 0 (4 + 4 + 8) = 0b1111#4 ++ 0#4 ++ v ↔ _
  simp only [field_eq_append_iff, and_assoc]

/-- A word whose only field below the opcode has twelve bits. -/
theorem eq_opcode_append_iff {low : BitVec 12} : w = op ++ low ↔ field w 12 4 = op ∧ field w 0 12 = low := by
  rw [eq_iff_field_eq]
  exact field_eq_append_iff (n := 4) (m := 12)

theorem eq_encode_rti_iff : w = encode .rti ↔ field w 12 4 = 0b1000#4 ∧ field w 0 12 = 0#12 :=
  eq_opcode_append_iff (op := 0b1000#4) (low := 0#12)

end

/-! ### RET and NOT, the words that rule R72 of 30_encoding.md takes out of JMP and XOR -/

/-- The word of RET is the JMP word with BaseR = 111. -/
theorem encode_jmpOrRet (base : Reg) : encode (jmpOrRet base) = encode (.jmp base) := by
  cases base <;> rfl

theorem wellFormed_jmpOrRet (base : Reg) : (jmpOrRet base).wellFormed = true := by
  cases base <;> rfl

theorem jmpOrRet_of_wellFormed {base : Reg} (h : (Instr.jmp base).wellFormed = true) : jmpOrRet base = .jmp base :=
  if_neg (bne_iff_ne.1 h)

/-- The word of NOT is the XOR word with imm5 = 11111. -/
theorem encode_xorOrNot (dr sr1 : Reg) (imm5 : BitVec 5) : encode (xorOrNot dr sr1 imm5) = formatRI 0b1001#4 dr sr1 imm5 := by
  unfold xorOrNot
  split
  next h => rw [h]; rfl
  next => rfl

theorem wellFormed_xorOrNot (dr sr1 : Reg) (imm5 : BitVec 5) : (xorOrNot dr sr1 imm5).wellFormed = true := by
  unfold xorOrNot
  split
  next => rfl
  next h => exact bne_iff_ne.2 h

theorem xorOrNot_of_wellFormed {dr sr1 : Reg} {imm5 : BitVec 5} (h : (Instr.xorImm dr sr1 imm5).wellFormed = true) :
    xorOrNot dr sr1 imm5 = .xorImm dr sr1 imm5 :=
  if_neg (bne_iff_ne.1 h)

end Sys2Proof
end

section
/-! SUPPORT. The decoder against the encoder (30_encoding.md rules R60 to R72): the round trip both ways, and
the policy that examines no zeros. -/

namespace Sys2Proof

/-! ### Decoding an encoding -/

theorem field_opcode_encode (i : Instr) : field (encode i) 12 4 = opcodeOf i := by
  cases i with
  | addReg dr sr1 sr2 => exact Laws.EncodeOpcode.addReg dr sr1 sr2
  | addImm dr sr1 imm5 => exact Laws.EncodeOpcode.addImm dr sr1 imm5
  | andReg dr sr1 sr2 => exact Laws.EncodeOpcode.andReg dr sr1 sr2
  | andImm dr sr1 imm5 => exact Laws.EncodeOpcode.andImm dr sr1 imm5
  | br n z p off => exact Laws.EncodeOpcode.br n z p off
  | ret => exact Laws.EncodeOpcode.ret
  | jmp base => exact Laws.EncodeOpcode.jmp base
  | jsr off => exact Laws.EncodeOpcode.jsr off
  | jsrr base => exact Laws.EncodeOpcode.jsrr base
  | ldb dr base off => exact Laws.EncodeOpcode.ldb dr base off
  | ldw dr base off => exact Laws.EncodeOpcode.ldw dr base off
  | lea dr off => exact Laws.EncodeOpcode.lea dr off
  | notReg dr sr => exact Laws.EncodeOpcode.notReg dr sr
  | rti => exact Laws.EncodeOpcode.rti
  | lshf dr sr amt => exact Laws.EncodeOpcode.lshf dr sr amt
  | rshfl dr sr amt => exact Laws.EncodeOpcode.rshfl dr sr amt
  | rshfa dr sr amt => exact Laws.EncodeOpcode.rshfa dr sr amt
  | stb sr base off => exact Laws.EncodeOpcode.stb sr base off
  | stw sr base off => exact Laws.EncodeOpcode.stw sr base off
  | trap v => exact Laws.EncodeOpcode.trap v
  | xorReg dr sr1 sr2 => exact Laws.EncodeOpcode.xorReg dr sr1 sr2
  | xorImm dr sr1 imm5 => exact Laws.EncodeOpcode.xorImm dr sr1 imm5
  | reserved1010 low => exact Laws.EncodeOpcode.reserved1010 low
  | reserved1011 low => exact Laws.EncodeOpcode.reserved1011 low

section
variable (op : BitVec 4) (dr sr1 sr2 base : Reg)

theorem decodeOperate_formatR3 (rform : Reg → Reg → Reg → Instr) (iform : Reg → Reg → BitVec 5 → Instr) :
    decodeOperate .strict (formatR3 op dr sr1 sr2) rform iform = .ok (rform dr sr1 sr2) := by
  obtain ⟨-, hdr, hsr1, hbit5, hzeros, hsr2⟩ := eq_formatR3_iff.1 (rfl : formatR3 op dr sr1 sr2 = _)
  simp [decodeOperate, hdr, hsr1, hbit5, hzeros, hsr2]

theorem decodeOperate_formatRI (rform : Reg → Reg → Reg → Instr) (iform : Reg → Reg → BitVec 5 → Instr) (imm5 : BitVec 5) :
    decodeOperate .strict (formatRI op dr sr1 imm5) rform iform = .ok (iform dr sr1 imm5) := by
  obtain ⟨-, hdr, hsr1, hbit5, himm⟩ := eq_formatRI_iff.1 (rfl : formatRI op dr sr1 imm5 = _)
  simp [decodeOperate, hdr, hsr1, hbit5, himm]

/-- The three operands read from a word of format M. -/
theorem operands_formatM (off : BitVec 6) (form : Reg → Reg → BitVec 6 → Instr) :
    form (regField (formatM op dr base off) 9) (regField (formatM op dr base off) 6) (field (formatM op dr base off) 0 6) =
      form dr base off := by
  obtain ⟨-, hdr, hbase, hoff⟩ := eq_formatM_iff.1 (rfl : formatM op dr base off = _)
  rw [hdr, hbase, hoff]

/-- Bit 4 first, bit 5 only for a right shift. -/
theorem decodeShift_formatSH (a d : BitVec 1) (amount4 : BitVec 4) :
    decodeShift (formatSH (a ++ d) dr sr1 amount4) =
      if d = 0#1 then .lshf dr sr1 amount4 else if a = 0#1 then .rshfl dr sr1 amount4 else .rshfa dr sr1 amount4 := by
  obtain ⟨-, hdr, hsr, ha, hd, hamount⟩ := eq_formatSH_iff.1 (rfl : formatSH (a ++ d) dr sr1 amount4 = _)
  rw [decodeShift, hdr, hsr, ha, hd, hamount]

end

theorem decide_ofBool_eq_one (b : Bool) : decide (BitVec.ofBool b = 1#1) = b := by
  cases b <;> rfl

theorem accept_strict_of_zeros {P : Prop} [Decidable P] (h : P) (i : Instr) : accept .strict P i = .ok i := by
  rw [decide_eq_true h, accept_strict_true]

/-- Settles O1: the opcode bits choose the branch of the decoder, and each format gives its operands back. -/
theorem decodeOfEncodeIsTheInstruction : Obligations.DecodeOfEncodeIsTheInstruction := by
  intro i hwf
  rw [decodeWord, field_opcode_encode]
  cases i with
  | addReg dr sr1 sr2 | andReg dr sr1 sr2 | xorReg dr sr1 sr2 => exact decodeOperate_formatR3 _ dr sr1 sr2 _ _
  | addImm dr sr1 imm5 | andImm dr sr1 imm5 => exact decodeOperate_formatRI _ dr sr1 _ _ imm5
  | xorImm dr sr1 imm5 =>
    exact (decodeOperate_formatRI _ dr sr1 _ _ imm5).trans (congrArg Except.ok (xorOrNot_of_wellFormed hwf))
  | notReg dr sr => exact decodeOperate_formatRI _ dr sr _ _ 0b11111#5
  | ldb dr base off | ldw dr base off | stb dr base off | stw dr base off =>
    exact congrArg Except.ok (operands_formatM _ dr base off _)
  | lshf dr sr amt => exact congrArg Except.ok (decodeShift_formatSH dr sr 0#1 0#1 amt)
  | rshfl dr sr amt => exact congrArg Except.ok (decodeShift_formatSH dr sr 0#1 1#1 amt)
  | rshfa dr sr amt => exact congrArg Except.ok (decodeShift_formatSH dr sr 1#1 1#1 amt)
  | br n z p off =>
    obtain ⟨-, hn, hz, hp, hoff⟩ := eq_encode_br_iff.1 (rfl : encode (.br n z p off) = _)
    simp only [opcodeOf, hn, hz, hp, hoff, decide_ofBool_eq_one]
  | ret => rfl
  | rti => rfl
  | jmp base =>
    obtain ⟨-, hzeros, hbase, hlow⟩ := eq_encode_jmp_iff.1 (rfl : encode (.jmp base) = _)
    exact (accept_strict_of_zeros ⟨hzeros, hlow⟩ _).trans (by rw [hbase, jmpOrRet_of_wellFormed hwf])
  | jsr off =>
    obtain ⟨-, hbit11, hoff⟩ := eq_encode_jsr_iff.1 (rfl : encode (.jsr off) = _)
    simp only [opcodeOf, decodeJsr, hbit11, hoff, if_true]
  | jsrr base =>
    obtain ⟨-, hbit11, hzeros, hbase, hlow⟩ := eq_encode_jsrr_iff.1 (rfl : encode (.jsrr base) = _)
    simp [opcodeOf, decodeJsr, hbit11, hzeros, hbase, hlow]
  | lea dr off =>
    obtain ⟨-, hdr, hoff⟩ := eq_encode_lea_iff.1 (rfl : encode (.lea dr off) = _)
    simp only [opcodeOf, hdr, hoff]
  | trap v =>
    obtain ⟨-, hzeros, hv⟩ := eq_encode_trap_iff.1 (rfl : encode (.trap v) = _)
    exact (accept_strict_of_zeros hzeros _).trans (by rw [hv])
  | reserved1010 low =>
    obtain ⟨-, hlow⟩ := eq_opcode_append_iff.1 (rfl : encode (.reserved1010 low) = _)
    simp only [opcodeOf, hlow]
  | reserved1011 low =>
    obtain ⟨-, hlow⟩ := eq_opcode_append_iff.1 (rfl : encode (.reserved1011 low) = _)
    simp only [opcodeOf, hlow]

theorem decodeWord_of_encode_eq {w : Word} {i : Instr} (hword : encode i = w) (hwf : i.wellFormed = true) :
    decodeWord .strict w = .ok i :=
  hword ▸ decodeOfEncodeIsTheInstruction i hwf

/-- Settles O5: each word is the encoding of the instruction it stands for. -/
theorem wordsOfTheSpecDecode : Obligations.WordsOfTheSpecDecode :=
  ⟨decodeWord_of_encode_eq rfl rfl, decodeWord_of_encode_eq rfl rfl, decodeWord_of_encode_eq rfl rfl,
    decodeWord_of_encode_eq rfl rfl, decodeWord_of_encode_eq rfl rfl, decodeWord_of_encode_eq rfl rfl,
    decodeWord_of_encode_eq rfl rfl, decodeWord_of_encode_eq rfl rfl, decodeWord_of_encode_eq rfl rfl,
    decodeWord_of_encode_eq rfl rfl⟩

/-! ### The word of what was decoded -/

/-- The sixteen opcodes, each under the name of its family, in the order of 30_encoding.md rule R69. -/
theorem opcodeCases {motive : BitVec 4 → Prop} (br : motive 0b0000#4) (add : motive 0b0001#4) (ldb : motive 0b0010#4)
    (stb : motive 0b0011#4) (call : motive 0b0100#4) (and : motive 0b0101#4) (ldw : motive 0b0110#4) (stw : motive 0b0111#4)
    (rti : motive 0b1000#4) (xor : motive 0b1001#4) (reserved1010 : motive 0b1010#4) (reserved1011 : motive 0b1011#4)
    (jmp : motive 0b1100#4) (shift : motive 0b1101#4) (lea : motive 0b1110#4) (trap : motive 0b1111#4) (op : BitVec 4) :
    motive op := by
  have hall : op = 0b0000#4 ∨ op = 0b0001#4 ∨ op = 0b0010#4 ∨ op = 0b0011#4 ∨ op = 0b0100#4 ∨ op = 0b0101#4 ∨ op = 0b0110#4 ∨
      op = 0b0111#4 ∨ op = 0b1000#4 ∨ op = 0b1001#4 ∨ op = 0b1010#4 ∨ op = 0b1011#4 ∨ op = 0b1100#4 ∨ op = 0b1101#4 ∨
      op = 0b1110#4 ∨ op = 0b1111#4 := by
    revert op
    decide
  rcases hall with rfl | rfl | rfl | rfl | rfl | rfl | rfl | rfl | rfl | rfl | rfl | rfl | rfl | rfl | rfl | rfl <;> assumption

/-- The word stands for the instruction: it is its encoding, but for bit 5 of a left shift (90_conflicts.md C3; log 19). -/
def StandsFor (w : Word) (i : Instr) : Prop :=
  i.wellFormed = true ∧
    (encode i = w ∨ ∃ dr sr amount4, i = .lshf dr sr amount4 ∧ w = 0b1101#4 ++ dr.bits ++ sr.bits ++ 0b10#2 ++ amount4)

theorem eq_zero_of_ne_one {b : BitVec 1} (h : b ≠ 1#1) : b = 0#1 := (BitVec.eq_zero_or_eq_one b).resolve_right h

theorem eq_one_of_ne_zero {b : BitVec 1} (h : b ≠ 0#1) : b = 1#1 := (BitVec.eq_zero_or_eq_one b).resolve_left h

theorem ofBool_decide_eq_one (b : BitVec 1) : BitVec.ofBool (decide (b = 1#1)) = b := by
  rcases BitVec.eq_zero_or_eq_one b with rfl | rfl <;> rfl

section
variable {w : Word} {i : Instr}

theorem standsFor_of_eq_encode (hwf : i.wellFormed = true) (h : w = encode i) : StandsFor w i := ⟨hwf, .inl h.symm⟩

/-- What opcodes 0001, 0101 and 1001 decode to stands for the word, if both forms encode to their formats. -/
theorem standsFor_of_decodeOperate {rform : Reg → Reg → Reg → Instr} {iform : Reg → Reg → BitVec 5 → Instr}
    (hr : ∀ dr sr1 sr2, (rform dr sr1 sr2).wellFormed = true ∧ encode (rform dr sr1 sr2) = formatR3 (field w 12 4) dr sr1 sr2)
    (hi : ∀ dr sr1 imm5, (iform dr sr1 imm5).wellFormed = true ∧ encode (iform dr sr1 imm5) = formatRI (field w 12 4) dr sr1 imm5)
    (h : decodeOperate .strict w rform iform = .ok i) : StandsFor w i := by
  unfold decodeOperate at h
  split at h
  next hbit5 =>
    obtain rfl := Except.ok.inj h
    obtain ⟨hwf, hencode⟩ := hi (regField w 9) (regField w 6) (field w 0 5)
    exact standsFor_of_eq_encode hwf ((eq_formatRI_iff.2 ⟨rfl, rfl, rfl, hbit5, rfl⟩).trans hencode.symm)
  next hbit5 =>
    obtain ⟨hzeros, rfl⟩ := accept_strict_eq_ok.1 h
    obtain ⟨hwf, hencode⟩ := hr (regField w 9) (regField w 6) (regField w 0)
    exact standsFor_of_eq_encode hwf
      ((eq_formatR3_iff.2 ⟨rfl, rfl, rfl, eq_zero_of_ne_one hbit5, of_decide_eq_true hzeros, rfl⟩).trans hencode.symm)

theorem standsFor_of_decodeJsr (hop : field w 12 4 = 0b0100#4) (h : decodeJsr .strict w = .ok i) : StandsFor w i := by
  unfold decodeJsr at h
  split at h
  next hbit11 =>
    obtain rfl := Except.ok.inj h
    exact standsFor_of_eq_encode rfl (eq_encode_jsr_iff.2 ⟨hop, hbit11, rfl⟩)
  next hbit11 =>
    obtain ⟨hzeros, rfl⟩ := accept_strict_eq_ok.1 h
    obtain ⟨hzeros, hlow⟩ := of_decide_eq_true hzeros
    exact standsFor_of_eq_encode rfl (eq_encode_jsrr_iff.2 ⟨hop, eq_zero_of_ne_one hbit11, hzeros, rfl, hlow⟩)

/-- A left shift stands for its word with either value of bit 5. -/
theorem standsFor_lshf {dr sr : Reg} {a : BitVec 1} {amount4 : BitVec 4} (h : w = formatSH (a ++ 0#1) dr sr amount4) :
    StandsFor w (.lshf dr sr amount4) := by
  subst h
  rcases BitVec.eq_zero_or_eq_one a with rfl | rfl
  · exact standsFor_of_eq_encode rfl rfl
  · have hbits : (1#1 ++ 0#1 : BitVec 2) = 0b10#2 := rfl
    exact ⟨rfl, .inr ⟨dr, sr, amount4, rfl, congrArg (formatSH · dr sr amount4) hbits⟩⟩

theorem standsFor_decodeShift (hop : field w 12 4 = 0b1101#4) : StandsFor w (decodeShift w) := by
  have hformat (a d : BitVec 1) (ha : field w 5 1 = a) (hd : field w 4 1 = d) :
      w = formatSH (a ++ d) (regField w 9) (regField w 6) (field w 0 4) := eq_formatSH_iff.2 ⟨hop, rfl, rfl, ha, hd, rfl⟩
  unfold decodeShift
  split
  next hbit4 => exact standsFor_lshf (hformat _ 0#1 rfl hbit4)
  next hbit4 =>
    split
    next hbit5 => exact standsFor_of_eq_encode rfl (hformat 0#1 1#1 hbit5 (eq_one_of_ne_zero hbit4))
    next hbit5 => exact standsFor_of_eq_encode rfl (hformat 1#1 1#1 (eq_one_of_ne_zero hbit5) (eq_one_of_ne_zero hbit4))

end

/-- Settles O2: in each branch of the decoder the fields it read, with the zeros it examined, spell the word. -/
theorem encodeOfDecodeIsTheWord : Obligations.EncodeOfDecodeIsTheWord := by
  intro w i h
  change StandsFor w i
  rw [decodeWord] at h
  cases hop : field w 12 4 using opcodeCases with rw [hop] at h
  | br =>
    obtain rfl := Except.ok.inj h
    refine standsFor_of_eq_encode rfl (eq_encode_br_iff.2 ⟨hop, ?_⟩)
    simp only [ofBool_decide_eq_one, and_self]
  | add | and =>
    exact standsFor_of_decodeOperate (fun _ _ _ => ⟨rfl, by rw [hop]; rfl⟩) (fun _ _ _ => ⟨rfl, by rw [hop]; rfl⟩) h
  | xor =>
    exact standsFor_of_decodeOperate (fun _ _ _ => ⟨rfl, by rw [hop]; rfl⟩)
      (fun _ _ _ => ⟨wellFormed_xorOrNot _ _ _, by rw [hop, encode_xorOrNot]⟩) h
  | ldb | stb | ldw | stw =>
    obtain rfl := Except.ok.inj h
    exact standsFor_of_eq_encode rfl (eq_formatM_iff.2 ⟨hop, rfl, rfl, rfl⟩)
  | call => exact standsFor_of_decodeJsr hop h
  | rti =>
    obtain ⟨hzeros, rfl⟩ := accept_strict_eq_ok.1 h
    exact standsFor_of_eq_encode rfl (eq_encode_rti_iff.2 ⟨hop, of_decide_eq_true hzeros⟩)
  | reserved1010 | reserved1011 =>
    obtain rfl := Except.ok.inj h
    exact standsFor_of_eq_encode rfl (eq_opcode_append_iff.2 ⟨hop, rfl⟩)
  | jmp =>
    obtain ⟨hzeros, rfl⟩ := accept_strict_eq_ok.1 h
    obtain ⟨hzeros, hlow⟩ := of_decide_eq_true hzeros
    refine standsFor_of_eq_encode (wellFormed_jmpOrRet _) ?_
    rw [encode_jmpOrRet]
    exact eq_encode_jmp_iff.2 ⟨hop, hzeros, rfl, hlow⟩
  | shift =>
    obtain rfl := Except.ok.inj h
    exact standsFor_decodeShift hop
  | lea =>
    obtain rfl := Except.ok.inj h
    exact standsFor_of_eq_encode rfl (eq_encode_lea_iff.2 ⟨hop, rfl, rfl⟩)
  | trap =>
    obtain ⟨hzeros, rfl⟩ := accept_strict_eq_ok.1 h
    exact standsFor_of_eq_encode rfl (eq_encode_trap_iff.2 ⟨hop, of_decide_eq_true hzeros, rfl⟩)

/-! ### The policy that examines no zeros -/

/-- A decoder that answers for every word under `ignore`, and under `ignore` whatever it answers under `strict`. -/
def ExtendsStrict (decode : SbzPolicy → Except DecodeReject Instr) : Prop :=
  (∃ i, decode .ignore = .ok i) ∧ ∀ i, decode .strict = .ok i → decode .ignore = .ok i

theorem extendsStrict_ok (i : Instr) : ExtendsStrict fun _ => .ok i := ⟨⟨i, rfl⟩, fun _ h => h⟩

theorem extendsStrict_accept (zeros : Bool) (i : Instr) : ExtendsStrict fun policy => accept policy zeros i := by
  refine ⟨⟨i, accept_ignore zeros i⟩, fun j h => ?_⟩
  obtain ⟨-, rfl⟩ := accept_strict_eq_ok.1 h
  exact accept_ignore zeros i

theorem extendsStrict_decodeOperate (w : Word) (rform : Reg → Reg → Reg → Instr) (iform : Reg → Reg → BitVec 5 → Instr) :
    ExtendsStrict fun policy => decodeOperate policy w rform iform := by
  unfold decodeOperate
  split
  · exact extendsStrict_ok _
  · exact extendsStrict_accept _ _

theorem extendsStrict_decodeJsr (w : Word) : ExtendsStrict fun policy => decodeJsr policy w := by
  unfold decodeJsr
  split
  · exact extendsStrict_ok _
  · exact extendsStrict_accept _ _

/-- Settles O4: the policy reaches the answer only through `accept`. -/
theorem ignorePolicyExtendsStrictDecoding : Obligations.IgnorePolicyExtendsStrictDecoding := by
  intro w
  change ExtendsStrict fun policy => decodeWord policy w
  unfold decodeWord
  cases field w 12 4 using opcodeCases with
  | br | ldb | stb | ldw | stw | reserved1010 | reserved1011 | shift | lea => exact extendsStrict_ok _
  | add | and | xor => exact extendsStrict_decodeOperate w _ _
  | call => exact extendsStrict_decodeJsr w
  | rti | jmp | trap => exact extendsStrict_accept _ _

end Sys2Proof
end

section
/-! SUPPORT. The opcode table read field by field, and the decoder's answer as its first matching row
(30_encoding.md rules R69, R71, R72). -/

namespace Sys2Proof

/-! ### A mask and a pattern as fields -/

/-- A test of one field: the `n` bits of a word from bit `lo` upward are `value`. -/
structure FieldTest where
  lo : Nat
  n : Nat
  value : BitVec n

/-- A row of the opcode table spelled by its mnemonic and tests of fields: the mask has the bits the tests cover and the pattern has
their values. -/
def OpcodeRow.SpelledBy (r : OpcodeRow) (row : String × List FieldTest) : Prop :=
  r.mnemonic = row.1 ∧ r.pattern &&& r.mask = r.pattern ∧
  (∀ k < 16, r.mask.getLsbD k = true ↔ ∃ t ∈ row.2, t.lo ≤ k ∧ k < t.lo + t.n) ∧
  ∀ t ∈ row.2, field r.pattern t.lo t.n = t.value

theorem field_eq_field_iff {w v : Word} {lo n : Nat} :
    field w lo n = field v lo n ↔ ∀ k, lo ≤ k ∧ k < lo + n → w.getLsbD k = v.getLsbD k := by
  constructor
  · rintro h k ⟨hlo, hhi⟩
    have hbit := congrArg (BitVec.getLsbD · (k - lo)) h
    simpa [field, show k - lo < n by omega, show lo + (k - lo) = k by omega] using hbit
  · intro h
    refine BitVec.eq_of_getLsbD_eq fun k hk => ?_
    simpa [field, hk] using h (lo + k) ⟨by omega, by omega⟩

theorem and_mask_eq_pattern_iff {w m p : Word} (hp : p &&& m = p) :
    w &&& m = p ↔ ∀ k < 16, m.getLsbD k = true → w.getLsbD k = p.getLsbD k := by
  constructor
  · intro h k _ hm
    rw [← h, BitVec.getLsbD_and, hm, Bool.and_true]
  · intro h
    refine BitVec.eq_of_getLsbD_eq fun k hk => ?_
    rw [← hp, BitVec.getLsbD_and, BitVec.getLsbD_and]
    cases hm : m.getLsbD k with
    | false => simp
    | true => rw [h k hk hm]

/-- A word is of the row exactly if it passes the tests. -/
theorem OpcodeRow.SpelledBy.matches_iff {r : OpcodeRow} {row : String × List FieldTest} (h : r.SpelledBy row) (w : Word) :
    w &&& r.mask = r.pattern ↔ ∀ t ∈ row.2, field w t.lo t.n = t.value := by
  obtain ⟨-, hpattern, hmask, hvalue⟩ := h
  rw [and_mask_eq_pattern_iff hpattern]
  constructor
  · intro hw t ht
    rw [← hvalue t ht, field_eq_field_iff]
    intro k hk
    by_cases hk16 : k < 16
    · exact hw k hk16 ((hmask k hk16).2 ⟨t, ht, hk⟩)
    · rw [BitVec.getLsbD_of_ge _ _ (by omega), BitVec.getLsbD_of_ge _ _ (by omega)]
  · intro hw k hk16 hm
    obtain ⟨t, ht, hk⟩ := (hmask k hk16).1 hm
    exact field_eq_field_iff.1 ((hw t ht).trans (hvalue t ht).symm) k hk

/-! ### The rows of the table -/

/-- The tests of each row of spec/opcode_table.json, in its order; the first is the opcode, the rest are the fields the decoder examines. -/
def rowTests : List (String × List FieldTest) :=
  [("ADD", [⟨12, 4, 0b0001⟩, ⟨5, 1, 0⟩, ⟨3, 2, 0⟩]),
   ("ADD", [⟨12, 4, 0b0001⟩, ⟨5, 1, 1⟩]),
   ("AND", [⟨12, 4, 0b0101⟩, ⟨5, 1, 0⟩, ⟨3, 2, 0⟩]),
   ("AND", [⟨12, 4, 0b0101⟩, ⟨5, 1, 1⟩]),
   ("BR", [⟨12, 4, 0b0000⟩]),
   ("RET", [⟨12, 4, 0b1100⟩, ⟨9, 3, 0⟩, ⟨6, 3, 0b111⟩, ⟨0, 6, 0⟩]),
   ("JMP", [⟨12, 4, 0b1100⟩, ⟨9, 3, 0⟩, ⟨0, 6, 0⟩]),
   ("JSR", [⟨12, 4, 0b0100⟩, ⟨11, 1, 1⟩]),
   ("JSRR", [⟨12, 4, 0b0100⟩, ⟨11, 1, 0⟩, ⟨9, 2, 0⟩, ⟨0, 6, 0⟩]),
   ("LDB", [⟨12, 4, 0b0010⟩]),
   ("LDW", [⟨12, 4, 0b0110⟩]),
   ("LEA", [⟨12, 4, 0b1110⟩]),
   ("NOT", [⟨12, 4, 0b1001⟩, ⟨5, 1, 1⟩, ⟨0, 5, 0b11111⟩]),
   ("RTI", [⟨12, 4, 0b1000⟩, ⟨0, 12, 0⟩]),
   ("LSHF", [⟨12, 4, 0b1101⟩, ⟨4, 1, 0⟩]),
   ("RSHFL", [⟨12, 4, 0b1101⟩, ⟨4, 1, 1⟩, ⟨5, 1, 0⟩]),
   ("RSHFA", [⟨12, 4, 0b1101⟩, ⟨4, 1, 1⟩, ⟨5, 1, 1⟩]),
   ("STB", [⟨12, 4, 0b0011⟩]),
   ("STW", [⟨12, 4, 0b0111⟩]),
   ("TRAP", [⟨12, 4, 0b1111⟩, ⟨8, 4, 0⟩]),
   ("XOR", [⟨12, 4, 0b1001⟩, ⟨5, 1, 0⟩, ⟨3, 2, 0⟩]),
   ("XOR", [⟨12, 4, 0b1001⟩, ⟨5, 1, 1⟩]),
   ("reserved_1010", [⟨12, 4, 0b1010⟩]),
   ("reserved_1011", [⟨12, 4, 0b1011⟩])]

/-- Each row of the model's table is spelled by the tests of the same place. -/
theorem opcodeRows_spelledBy_rowTests : List.Forall₂ OpcodeRow.SpelledBy opcodeRows rowTests := by
  unfold OpcodeRow.SpelledBy
  decide

/-- The name of the first row whose tests a word passes. -/
def firstPassing (w : Word) : List (String × List FieldTest) → Option String
  | [] => none
  | (name, tests) :: rows => if ∀ t ∈ tests, field w t.lo t.n = t.value then some name else firstPassing w rows

theorem find?_map_mnemonic_eq_firstPassing (w : Word) {rows : List OpcodeRow} {table : List (String × List FieldTest)}
    (h : List.Forall₂ OpcodeRow.SpelledBy rows table) :
    (rows.find? fun r => w &&& r.mask == r.pattern).map OpcodeRow.mnemonic = firstPassing w table := by
  induction h with
  | nil => rfl
  | @cons r row _ _ hrow _ ih =>
    have htests := hrow.matches_iff w
    obtain ⟨hmnemonic, -⟩ := hrow
    by_cases hw : w &&& r.mask = r.pattern
    · simp only [firstPassing, List.find?_cons, beq_iff_eq.2 hw, if_pos (htests.1 hw), Option.map_some, hmnemonic]
    · simp only [firstPassing, List.find?_cons, beq_eq_false_iff_ne.2 hw, if_neg (mt htests.2 hw), ih]

theorem firstRow_eq_firstPassing (w : Word) : firstRow w = firstPassing w rowTests :=
  find?_map_mnemonic_eq_firstPassing w opcodeRows_spelledBy_rowTests

/-! ### The mnemonic the decoder answers -/

/-- The mnemonic of what was decoded, if anything was. -/
def answered : Except DecodeReject Instr → Option String
  | .ok i => some i.mnemonic
  | .error _ => none

theorem answered_accept_strict (P : Prop) [Decidable P] (i : Instr) :
    answered (accept .strict P i) = if P then some i.mnemonic else none := by
  by_cases h : P <;> simp [h, answered]

theorem answered_decodeOperate_strict (w : Word) (rform : Reg → Reg → Reg → Instr) (iform : Reg → Reg → BitVec 5 → Instr) :
    answered (decodeOperate .strict w rform iform) =
      if field w 5 1 = 1#1 then some (iform (regField w 9) (regField w 6) (field w 0 5)).mnemonic
      else if field w 3 2 = 0#2 then some (rform (regField w 9) (regField w 6) (regField w 0)).mnemonic else none := by
  rw [decodeOperate, apply_ite answered, answered_accept_strict, answered]

theorem answered_decodeJsr_strict (w : Word) :
    answered (decodeJsr .strict w) =
      if field w 11 1 = 1#1 then some "JSR" else if field w 9 2 = 0#2 ∧ field w 0 6 = 0#6 then some "JSRR" else none := by
  rw [decodeJsr, apply_ite answered, answered_accept_strict, answered]
  rfl

theorem mnemonic_decodeShift (w : Word) : (decodeShift w).mnemonic =
    if field w 4 1 = 0#1 then "LSHF" else if field w 5 1 = 0#1 then "RSHFL" else "RSHFA" := by
  rw [decodeShift, apply_ite Instr.mnemonic, apply_ite Instr.mnemonic]
  rfl

theorem mnemonic_jmpOrRet (base : Reg) : (jmpOrRet base).mnemonic = if base = .r7 then "RET" else "JMP" := apply_ite _ _ _ _

theorem bit_eq_zero_iff {b : BitVec 1} : b = 0#1 ↔ ¬ b = 1#1 :=
  ⟨by rintro rfl; decide, eq_zero_of_ne_one⟩

/-- The rows of the opcode of the word, tested in their order, ask for what the branch of the decoder for that opcode asks for. -/
theorem answered_decodeWord_strict (w : Word) : answered (decodeWord .strict w) = firstPassing w rowTests := by
  unfold decodeWord
  cases hop : field w 12 4 using opcodeCases with
  | br | ldb | stb | ldw | stw | reserved1010 | reserved1011 | lea =>
    simp [firstPassing, rowTests, hop, answered, Instr.mnemonic]
  | rti | trap => simp [firstPassing, rowTests, hop, answered_accept_strict, Instr.mnemonic]
  | add | and =>
    by_cases hbit5 : field w 5 1 = 1#1 <;>
      simp [firstPassing, rowTests, hop, hbit5, bit_eq_zero_iff, answered_decodeOperate_strict, Instr.mnemonic]
  | xor =>
    by_cases hbit5 : field w 5 1 = 1#1
    · by_cases himm : field w 0 5 = 0b11111#5 <;>
        simp [firstPassing, rowTests, hop, hbit5, himm, answered_decodeOperate_strict, xorOrNot, Instr.mnemonic]
    · simp [firstPassing, rowTests, hop, hbit5, bit_eq_zero_iff, answered_decodeOperate_strict, Instr.mnemonic]
  | call =>
    by_cases hbit11 : field w 11 1 = 1#1 <;>
      simp [firstPassing, rowTests, hop, hbit11, bit_eq_zero_iff, answered_decodeJsr_strict]
  | jmp =>
    refine (answered_accept_strict (field w 9 3 = 0#3 ∧ field w 0 6 = 0#6) (jmpOrRet (regField w 6))).trans ?_
    by_cases hzeros : field w 9 3 = 0#3 ∧ field w 0 6 = 0#6 <;> by_cases hbase : field w 6 3 = 0b111#3 <;>
      simp [firstPassing, rowTests, hop, hzeros, hbase, mnemonic_jmpOrRet, regField_eq_iff, Reg.bits]
  | shift =>
    by_cases hbit4 : field w 4 1 = 1#1 <;> by_cases hbit5 : field w 5 1 = 1#1 <;>
      simp [firstPassing, rowTests, hop, hbit4, hbit5, bit_eq_zero_iff, answered, mnemonic_decodeShift]

/-- Settles O3: the decoder and the table read field by field answer the same mnemonic. -/
theorem decoderAnswersFirstMatchingTableRow : Obligations.DecoderAnswersFirstMatchingTableRow := by
  intro w
  rw [firstRow_eq_firstPassing, ← answered_decodeWord_strict]
  cases decodeWord .strict w <;> rfl

end Sys2Proof
end

section
/-! SUPPORT. Assembly lines with an immediate or an amount (30_encoding.md rule R73), and the words that stand for a shift (rule R67). -/

namespace Sys2Proof

/-! ### Immediates and amounts that fit their fields -/

/-- The signed value of a field is in its range and names the field. -/
@[simp] theorem signedField_toInt {n : Nat} (v : BitVec n) : signedField n v.toInt = some v := by
  rw [signedField, if_pos ⟨BitVec.le_toInt v, BitVec.toInt_lt⟩, BitVec.ofInt_toInt]

/-- The unsigned value of a field is in its range and names the field. -/
@[simp] theorem unsignedField_toNat {n : Nat} (v : BitVec n) : unsignedField n v.toNat = some v := by
  have hlt : (v.toNat : Int) < 2 ^ n := by exact_mod_cast v.isLt
  rw [unsignedField, if_pos ⟨Int.natCast_nonneg _, hlt⟩, BitVec.ofInt_natCast, BitVec.ofNat_toNat, BitVec.setWidth_eq]

theorem assembleOperate_imm (rform : Reg → Reg → Reg → Instr) (iform : Reg → Reg → BitVec 5 → Instr) (dr sr1 : Reg)
    (imm5 : BitVec 5) : assembleOperate rform iform dr sr1 (.imm imm5.toInt) = some (iform dr sr1 imm5) := by
  rw [assembleOperate, signedField_toInt, Option.map_some]

theorem map_unsignedField_toNat {n : Nat} (form : BitVec n → Instr) (v : BitVec n) :
    (unsignedField n v.toNat).map form = some (form v) := by
  rw [unsignedField_toNat, Option.map_some]

/-! ### The words of a shift -/

theorem decodeWord_formatSH (a d : BitVec 1) (dr sr : Reg) (amount4 : BitVec 4) :
    decodeWord .strict (formatSH (a ++ d) dr sr amount4) =
      .ok (if d = 0#1 then .lshf dr sr amount4 else if a = 0#1 then .rshfl dr sr amount4 else .rshfa dr sr amount4) := by
  rw [decodeWord, field_opcode_formatSH]
  exact congrArg Except.ok (decodeShift_formatSH dr sr a d amount4)

/-- Bit 5 of a left shift is not examined (90_conflicts.md C3; log 19). -/
theorem decodeWord_lshf (a : BitVec 1) (dr sr : Reg) (amount4 : BitVec 4) :
    decodeWord .strict (formatSH (a ++ 0#1) dr sr amount4) = .ok (.lshf dr sr amount4) := by
  rw [decodeWord_formatSH, if_pos rfl]

end Sys2Proof
end

section
/-! SUPPORT. The operate instructions (40_operate.md): the value each computes, in the terms of the spec, and the statements about them. -/

namespace Sys2Proof.Machine

/-- The word the encoder writes and the line that assembles are forms of a well-formed instruction. -/
theorem hasForm_of_encode {w : Word} {line : Word → Asm} {i : Instr} (hwf : i.wellFormed = true) (hword : encode i = w)
    (hasm : ∀ pos, assemble pos (line pos) = some i) : HasForm w line i :=
  ⟨decodeWord_of_encode_eq hword hwf, hasm⟩

/-! ### The second operand and the shifts (00_scope.md rules R7, R9, R10) -/

/-- Bit 4 of imm5 is repeated above it (30_encoding.md rule R70). -/
theorem getLsbD_immOperand (imm5 : BitVec 5) {k : Nat} (hk : k < 16) : (immOperand imm5).getLsbD k = imm5.getLsbD (min k 4) := by
  rw [immOperand, sext, BitVec.getLsbD_signExtend, decide_eq_true hk, Bool.true_and]
  split
  next hlow => rw [Nat.min_eq_left (Nat.le_of_lt_succ hlow)]
  next hhigh => rw [Nat.min_eq_right (by omega), BitVec.msb_eq_getLsbD_last]

/-- A sum with imm5 is the sum of the signed values modulo 2^16 (the decision D4, log 25). -/
theorem add_immOperand (a : Word) (imm5 : BitVec 5) : a + immOperand imm5 = BitVec.ofInt 16 (a.toInt + imm5.toInt) := by
  rw [BitVec.ofInt_add, BitVec.ofInt_toInt, immOperand, sext_eq_ofInt]

/-- imm5 = 11111 extends to sixteen ones. -/
theorem xor_immOperand_ones (a : Word) : a ^^^ immOperand 0b11111#5 = ~~~a := by
  rw [show immOperand 0b11111#5 = BitVec.allOnes 16 from rfl, BitVec.xor_allOnes]

theorem lshfWord_eq_ofNat (a : Word) (b : Nat) : lshfWord a b = BitVec.ofNat 16 (a.toNat * 2 ^ b) := by
  apply BitVec.eq_of_toNat_eq
  rw [lshfWord, BitVec.toNat_shiftLeft, BitVec.toNat_ofNat, Nat.shiftLeft_eq]

theorem rshfWord_false (a : Word) (b : Nat) : rshfWord a b false = a >>> b := BitVec.or_zero

theorem rshfWord_false_eq_ofNat (a : Word) (b : Nat) : rshfWord a b false = BitVec.ofNat 16 (a.toNat / 2 ^ b) := by
  apply BitVec.eq_of_toNat_eq
  rw [rshfWord_false, BitVec.toNat_ushiftRight, Nat.shiftRight_eq_div_pow, BitVec.toNat_ofNat,
    Nat.mod_eq_of_lt ((Nat.div_le_self _ _).trans_lt a.isLt)]

theorem msb_rshfWord_false (a : Word) {b : Nat} (hb : 0 < b) : (rshfWord a b false).msb = false := by
  rw [rshfWord_false, BitVec.msb_ushiftRight, decide_eq_true hb, Bool.not_true, Bool.false_and]

/-- Filled with its own sign, the shift is the arithmetic one. -/
theorem rshfWord_msb (a : Word) (b : Nat) : rshfWord a b a.msb = a.sshiftRight b := by
  cases hsign : a.msb with
  | false => rw [rshfWord_false, BitVec.sshiftRight_eq_of_msb_false hsign]
  | true =>
    apply BitVec.eq_of_getLsbD_eq
    intro k hk
    rw [BitVec.getLsbD_sshiftRight, rshfWord, if_pos rfl, BitVec.getLsbD_or, BitVec.getLsbD_not, BitVec.getLsbD_ushiftRight,
      BitVec.getLsbD_ushiftRight, BitVec.getLsbD_allOnes]
    by_cases hin : b + k < 16
    · simp [hk, hin]
    · simp [hk, hin, hsign]

theorem rshfWord_msb_eq_ofInt (a : Word) (b : Nat) : rshfWord a b a.msb = BitVec.ofInt 16 (a.toInt / 2 ^ b) := by
  rw [rshfWord_msb, BitVec.sshiftRight_eq, Int.shiftRight_eq_div_pow, Nat.cast_pow, Nat.cast_ofNat]

/-- The arithmetic right shift keeps bit 15. -/
theorem getLsbD_15_rshfWord_msb (a : Word) (b : Nat) : (rshfWord a b a.msb).getLsbD 15 = a.getLsbD 15 := by
  have hsign : (a.sshiftRight b).msb = a.msb := BitVec.msb_sshiftRight
  rwa [rshfWord_msb, ← BitVec.msb_eq_getLsbD_last, ← BitVec.msb_eq_getLsbD_last]

/-! ### The statements: the two forms, then the outcome `writeResult` of the computed value -/

/-- The frame of an operate result, its value in other terms. -/
theorem writesResult_of_value_eq (s : State) (dr : Reg) {u v : Word} (h : u = v) : WritesResult s (writeResult dr u s) dr v :=
  h ▸ writesResult_writeResult s dr u

/-- Settles O7: the sum of words is the sum of their numbers modulo 2^16. -/
theorem addRegisterWritesSumModulo65536 : Obligations.AddRegisterWritesSumModulo65536 := fun dr _ _ =>
  ⟨hasForm_of_encode rfl rfl fun _ => rfl, fun s => ⟨_, rfl, writesResult_of_value_eq s dr (BitVec.add_def _ _)⟩⟩

/-- Settles O8, by `add_immOperand`. -/
theorem addImmediateWritesSumWithSignedImmediate : Obligations.AddImmediateWritesSumWithSignedImmediate := fun dr sr1 imm5 =>
  ⟨hasForm_of_encode rfl rfl fun _ => assembleOperate_imm .addReg .addImm dr sr1 imm5,
    fun s => ⟨_, rfl, writesResult_of_value_eq s dr (add_immOperand _ imm5)⟩⟩

/-- Settles O9, bit by bit. -/
theorem andWritesBitwiseConjunction : Obligations.AndWritesBitwiseConjunction := by
  refine ⟨fun dr sr1 sr2 => ⟨hasForm_of_encode rfl rfl fun _ => rfl, fun s => ?_⟩,
    fun dr sr1 imm5 => ⟨hasForm_of_encode rfl rfl fun _ => assembleOperate_imm .andReg .andImm dr sr1 imm5, fun s => ?_⟩⟩
  · exact ⟨_, _, rfl, writesResult_writeResult s dr _, fun k _ => BitVec.getLsbD_and⟩
  · refine ⟨_, _, rfl, writesResult_writeResult s dr _, fun k hk => ?_⟩
    rw [BitVec.getLsbD_and, getLsbD_immOperand imm5 hk]

/-- Settles O10, bit by bit; the word and the line of imm5 = 11111 are left to NOT. -/
theorem xorWritesBitwiseExclusiveOr : Obligations.XorWritesBitwiseExclusiveOr := by
  refine ⟨fun dr sr1 sr2 => ⟨hasForm_of_encode rfl rfl fun _ => rfl, fun s => ?_⟩, fun dr sr1 imm5 => ⟨fun himm => ?_, fun s => ?_⟩⟩
  · exact ⟨_, _, rfl, writesResult_writeResult s dr _, fun k _ => BitVec.getLsbD_xor⟩
  · have hwf : (Instr.xorImm dr sr1 imm5).wellFormed = true := bne_iff_ne.2 himm
    refine hasForm_of_encode hwf rfl fun _ => (assembleOperate_imm .xorReg xorOrNot dr sr1 imm5).trans ?_
    rw [xorOrNot_of_wellFormed hwf]
  · refine ⟨_, _, rfl, writesResult_writeResult s dr _, fun k hk => ?_⟩
    rw [BitVec.getLsbD_xor, getLsbD_immOperand imm5 hk]

/-- The six ones of NOT's figure are bit 5 and imm5 of the XOR word (30_encoding.md rule R62). -/
theorem encode_notReg (dr sr : Reg) : encode (.notReg dr sr) = 0b1001#4 ++ dr.bits ++ sr.bits ++ 0b111111#6 :=
  BitVec.append_assoc (x₃ := 0b11111#5)

/-- NOT and the meaning of XOR at imm5 = 11111 (40_operate.md rule R84). -/
theorem exec_notReg_eq_exec_xorImm (dr sr : Reg) (s : State) : exec (.notReg dr sr) s = exec (.xorImm dr sr 0b11111#5) s :=
  congrArg (fun v => Host.Outcome.next (writeResult dr v s)) (xor_immOperand_ones (getReg s sr)).symm

/-- Settles O11: -1 is the signed value of imm5 = 11111, for which the assembler and the decoder answer NOT. -/
theorem notComplementsEveryBitAndIsXorWithMinusOne : Obligations.NotComplementsEveryBitAndIsXorWithMinusOne := by
  refine fun dr sr => ⟨hasForm_of_encode rfl (encode_notReg dr sr) fun _ => rfl,
    hasForm_of_encode rfl (encode_notReg dr sr) fun _ => assembleOperate_imm .xorReg xorOrNot dr sr 0b11111#5, fun s => ?_⟩
  refine ⟨exec_notReg_eq_exec_xorImm dr sr s, _, _, rfl, writesResult_writeResult s dr _, fun k hk => ?_⟩
  rw [BitVec.getLsbD_not, decide_eq_true hk, Bool.true_and]

/-- Settles O12: the decoder answers the same for either bit 5, and the line has the same amount. -/
theorem leftShiftMultipliesByPowerOfTwo : Obligations.LeftShiftMultipliesByPowerOfTwo := fun dr sr amount4 =>
  ⟨⟨decodeWord_lshf 0#1 dr sr amount4, fun _ => map_unsignedField_toNat _ amount4⟩,
    ⟨decodeWord_lshf 1#1 dr sr amount4, fun _ => map_unsignedField_toNat _ amount4⟩,
    fun s => ⟨_, rfl, writesResult_of_value_eq s dr (lshfWord_eq_ofNat _ _)⟩⟩

/-- Settles O13: the shift is the quotient, and any amount but 0 clears bit 15. -/
theorem logicalRightShiftDividesUnsigned : Obligations.LogicalRightShiftDividesUnsigned := by
  refine fun dr sr amount4 => ⟨hasForm_of_encode rfl rfl fun _ => map_unsignedField_toNat _ amount4, fun s => ?_⟩
  refine ⟨_, rfl, writesResult_of_value_eq s dr (rshfWord_false_eq_ofNat _ _), fun hamount => ?_⟩
  have hpos : 0 < amount4.toNat := Nat.pos_of_ne_zero fun h0 => hamount (BitVec.eq_of_toNat_eq h0)
  rw [writeResult_ccN, msb_rshfWord_false _ hpos]

/-- Settles O14: the shift is the quotient of the signed value rounded down, and it keeps bit 15. -/
theorem arithmeticRightShiftDividesSigned : Obligations.ArithmeticRightShiftDividesSigned := fun dr _ amount4 =>
  ⟨hasForm_of_encode rfl rfl fun _ => map_unsignedField_toNat _ amount4,
    fun s => ⟨_, _, rfl, writesResult_writeResult s dr _, rshfWord_msb_eq_ofInt _ _, getLsbD_15_rshfWord_msb _ _⟩⟩

end Sys2Proof.Machine
end

section
/-! SUPPORT. The data movement instructions (41_data_movement.md): their addresses as signed arithmetic, their assembly lines, and the statements
about them. -/

namespace Sys2Proof

/-! ### Offsets and labels that fit their fields (30_encoding.md rule R73) -/

theorem map_signedField_toInt {n : Nat} (form : BitVec n → Instr) (v : BitVec n) :
    (signedField n v.toInt).map form = some (form v) := by
  rw [signedField_toInt, Option.map_some]

/-- Twice the signed value of a field of at most 15 bits does not wrap in a word. -/
theorem toInt_ofInt_two_mul_toInt {n : Nat} (hn : n ≤ 15) (v : BitVec n) : (BitVec.ofInt 16 (2 * v.toInt)).toInt = 2 * v.toInt := by
  have hpow : (2 : Int) ^ (n - 1) ≤ 2 ^ 14 := pow_le_pow_right₀ (by decide) (by omega)
  have hlow := BitVec.le_toInt v
  have hhigh := BitVec.toInt_lt (x := v)
  exact BitVec.toInt_ofInt_eq_self (by decide) (by omega) (by omega)

/-- The label at the incremented PC plus twice a signed offset has that offset as its field, where it wraps too (log 20). -/
theorem labelField_add_two_mul_toInt {n : Nat} (hn : n ≤ 15) (pos : Word) (v : BitVec n) :
    labelField n pos (pos + 2#16 + BitVec.ofInt 16 (2 * v.toInt)) = some v := by
  rw [labelField, add_sub_cancel_left, toInt_ofInt_two_mul_toInt hn, if_pos (Int.mul_emod_right 2 _),
    Int.mul_ediv_cancel_left _ two_ne_zero, signedField_toInt]

end Sys2Proof

namespace Sys2Proof.Machine

/-! ### Effective addresses (41_data_movement.md rule R105) -/

theorem byteAddress_eq (base : Word) (boffset6 : BitVec 6) : byteAddress base boffset6 = base + BitVec.ofInt 16 boffset6.toInt := by
  rw [byteAddress, sext_eq_ofInt]

theorem wordAddress_eq (base : Word) (offset6 : BitVec 6) : wordAddress base offset6 = base + BitVec.ofInt 16 (2 * offset6.toInt) := by
  rw [wordAddress, lshfWord_sext_one]

/-- Settles O16. -/
theorem effectiveAddressesAddSignedOffsets : Obligations.EffectiveAddressesAddSignedOffsets := fun base offset6 =>
  ⟨byteAddress_eq base offset6, wordAddress_eq base offset6, isOdd_wordAddress base offset6⟩

/-! ### LEA and the loads: the form, then the outcome `writeResult` of the address or of what memory holds there -/

theorem exec_lea (dr : Reg) (offset9 : BitVec 9) (s : State) :
    exec (.lea dr offset9) s = .next (writeResult dr (pcRelative9 s.pc offset9) s) := rfl

/-- Settles O17: the label of the line is at the address that is written. -/
theorem leaWritesPcRelativeAddress : Obligations.LeaWritesPcRelativeAddress := by
  refine fun dr offset9 => ⟨hasForm_of_encode rfl rfl fun pos => ?_, fun s => ?_⟩
  · rw [assemble, labelField_add_two_mul_toInt (by decide), Option.map_some]
  · exact ⟨_, exec_lea dr offset9 s, writesResult_of_value_eq s dr (pcRelative9_eq s.pc offset9)⟩

/-- Settles O18: any address outside the device region, odd ones too, is read as a byte of memory. -/
theorem ldbWritesSignExtendedByteOfMemory : Obligations.LdbWritesSignExtendedByteOfMemory := by
  refine fun dr base boffset6 => ⟨hasForm_of_encode rfl rfl fun _ => map_signedField_toInt _ boffset6, fun s hregion => ?_⟩
  exact ⟨_, exec_ldb_of_ordinary dr boffset6 rfl hregion, writesResult_of_value_eq s dr (sext_eq_ofInt _)⟩

/-- Settles O19. -/
theorem ldwWritesLittleEndianWordOfMemory : Obligations.LdwWritesLittleEndianWordOfMemory := by
  refine fun dr base offset6 => ⟨hasForm_of_encode rfl rfl fun _ => map_signedField_toInt _ offset6, fun s heven hregion => ?_⟩
  exact ⟨_, exec_ldw_of_ordinary dr offset6 heven hregion, writesResult_writeResult s dr _⟩

/-! ### The stores: the form, then the outcome `withMem`, whose frame leaves processor and devices -/

theorem exec_stb_of_ordinary {s : State} {base : Reg} (sr : Reg) (boffset6 : BitVec 6)
    (h : inDeviceRegion (byteAddress (getReg s base) boffset6) = false) : exec (.stb sr base boffset6) s =
      .next (s.withMem (s.mem.set (byteAddress (getReg s base) boffset6).toNat (lowByte (getReg s sr)))) := by
  rw [exec_stb, writeByte_eq_next.2 ⟨h, rfl⟩]

/-- Settles O21. -/
theorem stbStoresLowByteOnly : Obligations.StbStoresLowByteOnly := by
  refine fun sr base boffset6 => ⟨hasForm_of_encode rfl rfl fun _ => map_signedField_toInt _ boffset6, ?_⟩
  rintro s hwf ea rfl hregion
  refine ⟨_, exec_stb_of_ordinary sr boffset6 hregion, ?_, sameMemoryOutside_set hwf _ _, sameProcessor_withMem s _,
    sameDevices_withMem s _⟩
  rw [State.withMem_mem, Memory.get_set hwf, if_pos rfl, lowByte_eq]

/-- Settles O22: the two bytes of the word read back, each at its own address. -/
theorem stwStoresLittleEndianWord : Obligations.StwStoresLittleEndianWord := by
  refine fun sr base offset6 => ⟨hasForm_of_encode rfl rfl fun _ => map_signedField_toInt _ offset6, ?_⟩
  rintro s hwf heven ea rfl hregion
  refine ⟨_, exec_stw_of_ordinary sr offset6 heven hregion, ?_, ?_, sameMemoryOutside_setWord hwf _ _, sameProcessor_withMem s _,
    sameDevices_withMem s _⟩
  · rw [State.withMem_mem, Memory.get_setWord_low hwf, ← lowByte, lowByte_eq]
  · rw [State.withMem_mem, Memory.get_setWord_high hwf, highByte_eq]

end Sys2Proof.Machine
end

section
/-! SUPPORT. The control instructions (42_control.md): BR's condition, the labels of the lines of BR and JSR, the register targets of JMP, RET and JSRR, and the
statements about them. -/

namespace Sys2Proof

/-! ### Labels in reach of the incremented PC (30_encoding.md rules R73, R74) -/

theorem assemble_branch {name : BranchName} {n z p : Bool} (hbits : name.bits = (n, z, p)) (pos : Word) (offset9 : BitVec 9) :
    assemble pos (.branch name (pos + 2#16 + BitVec.ofInt 16 (2 * offset9.toInt))) = some (.br n z p offset9) := by
  rw [assemble, labelField_add_two_mul_toInt (by decide), hbits, Option.map_some]

theorem assemble_jsr (pos : Word) (offset11 : BitVec 11) :
    assemble pos (.jsr (pos + 2#16 + BitVec.ofInt 16 (2 * offset11.toInt))) = some (.jsr offset11) := by
  rw [assemble, labelField_add_two_mul_toInt (by decide), Option.map_some]

end Sys2Proof

namespace Sys2Proof.Machine

section
variable {s : State} {base : Reg}

/-! ### BR (42_control.md rule R120) -/

theorem branchTaken_iff {n z p : Bool} : branchTaken n z p s = true ↔
    (n = true ∧ s.ccN = true) ∨ (z = true ∧ s.ccZ = true) ∨ (p = true ∧ s.ccP = true) := by
  simp only [branchTaken, Bool.or_eq_true, Bool.and_eq_true, or_assoc]

theorem exec_br (n z p : Bool) (offset9 : BitVec 9) (s : State) : exec (.br n z p offset9) s =
    .next (if branchTaken n z p s then s.withPC (pcRelative9 s.pc offset9) else s) := rfl

/-! ### JMP and RET (rules R122, R126): an odd base register faults, an even one is the target -/

theorem exec_jmp (base : Reg) (s : State) : exec (.jmp base) s =
    faultIf (isOdd (getReg s base)) .illegalOperandAddress (.next (s.withPC (getReg s base))) := rfl

theorem exec_jmp_of_even (h : isOdd (getReg s base) = false) : exec (.jmp base) s = .next (s.withPC (getReg s base)) := by
  rw [exec_jmp, h, faultIf_false]

theorem exec_jmp_of_odd (h : isOdd (getReg s base) = true) : exec (.jmp base) s = .fault .illegalOperandAddress := by
  rw [exec_jmp, h, faultIf_true]

theorem exec_ret_eq_exec_jmp (s : State) : exec .ret s = exec (.jmp .r7) s := rfl

/-! ### JSR and JSRR (rules R124, R125) -/

theorem exec_jsr (offset11 : BitVec 11) (s : State) :
    exec (.jsr offset11) s = .next (linkAndJump s s.pc (pcRelative11 s.pc offset11)) := rfl

/-- Read after R7 has taken the link, R7 holds the link and every other register what it held (the decision D8, log 13). -/
theorem jsrrTarget_after (s : State) (link : Word) (base : Reg) :
    jsrrTarget .after s link base = if base = .r7 then link else getReg s base :=
  getReg_setReg s .r7 base link

theorem exec_jsrr (base : Reg) (s : State) : exec (.jsrr base) s =
    faultIf (isOdd (if base = .r7 then s.pc else getReg s base)) .illegalOperandAddress
      (.next (linkAndJump s s.pc (if base = .r7 then s.pc else getReg s base))) := by
  rw [← jsrrTarget_after]
  rfl

theorem exec_jsrr_of_even (hbase : base ≠ .r7) (h : isOdd (getReg s base) = false) :
    exec (.jsrr base) s = .next (linkAndJump s s.pc (getReg s base)) := by
  rw [exec_jsrr, if_neg hbase, h, faultIf_false]

theorem exec_jsrr_of_odd (hbase : base ≠ .r7) (h : isOdd (getReg s base) = true) :
    exec (.jsrr base) s = .fault .illegalOperandAddress := by
  rw [exec_jsrr, if_neg hbase, h, faultIf_true]

theorem exec_jsrr_r7 (h : isOdd s.pc = false) : exec (.jsrr .r7) s = .next (linkAndJump s s.pc s.pc) := by
  rw [exec_jsrr, if_pos rfl, h, faultIf_false]

end

/-! ### The statements: the form, then the outcome `withPC` or `linkAndJump`, whose frame leaves all else -/

/-- Settles O27: the disjunction of the tested codes is the condition `branchTaken`. -/
theorem branchTakenExactlyWhenTestedCodeIsSet : Obligations.BranchTakenExactlyWhenTestedCodeIsSet := by
  refine fun n z p offset9 => ⟨decodeWord_of_encode_eq rfl rfl, fun _ pos hbits => assemble_branch hbits pos offset9, fun s => ?_⟩
  rw [← branchTaken_iff, exec_br, ← pcRelative9_eq]
  refine ⟨fun htaken => ?_, fun huntaken => ?_⟩
  · rw [if_pos htaken]
    exact ⟨_, rfl, jumpsTo_withPC s _⟩
  · rw [if_neg huntaken]

/-- Settles O28: for BaseR other than R7 the decoder and the assembler choose JMP, not RET. -/
theorem jmpGoesToEvenRegisterAndFaultsOnOdd : Obligations.JmpGoesToEvenRegisterAndFaultsOnOdd := by
  refine fun base => ⟨fun hbase => ?_, fun s => ⟨fun heven => ⟨_, exec_jmp_of_even heven, jumpsTo_withPC s _⟩, exec_jmp_of_odd⟩⟩
  have hwf : (Instr.jmp base).wellFormed = true := bne_iff_ne.2 hbase
  exact hasForm_of_encode hwf rfl fun _ => congrArg some (jmpOrRet_of_wellFormed hwf)

/-- Settles O29: the outcomes are those of JMP with BaseR = 7 (O28). -/
theorem retGoesToEvenR7AndFaultsOnOdd : Obligations.RetGoesToEvenR7AndFaultsOnOdd := by
  refine ⟨hasForm_of_encode rfl rfl fun _ => rfl, hasForm_of_encode rfl rfl fun _ => rfl, fun s => ⟨exec_ret_eq_exec_jmp s, ?_⟩⟩
  obtain ⟨-, houtcome⟩ := jmpGoesToEvenRegisterAndFaultsOnOdd .r7
  rw [exec_ret_eq_exec_jmp]
  exact houtcome s

/-- Settles O30: the label of the line is at the address that is called. -/
theorem jsrLinksAndGoesToPcRelativeTarget : Obligations.JsrLinksAndGoesToPcRelativeTarget := by
  refine fun offset11 => ⟨hasForm_of_encode rfl rfl fun pos => assemble_jsr pos offset11, fun s => ?_⟩
  rw [← pcRelative11_eq]
  exact ⟨_, exec_jsr offset11 s, callsTo_linkAndJump s _⟩

/-- Settles O31: an even and an odd base register, and R7, where the link is the target. -/
theorem jsrrLinksAndGoesToRegister : Obligations.JsrrLinksAndGoesToRegister := by
  refine fun base => ⟨hasForm_of_encode rfl rfl fun _ => rfl, fun s => ⟨fun hbase heven => ?_, exec_jsrr_of_odd, ?_⟩⟩
  · exact ⟨_, exec_jsrr_of_even hbase heven, callsTo_linkAndJump s _⟩
  · rintro rfl heven
    exact ⟨_, exec_jsrr_r7 heven, callsTo_linkAndJump s _⟩

/-- Settles O32: a register read after a write to R7, and one before it. -/
theorem jsrrOrderMattersForR7Only : Obligations.JsrrOrderMattersForR7Only := fun s link base =>
  ⟨jsrrTarget_after s link base, rfl⟩

end Sys2Proof.Machine
end

section
/-! SUPPORT. The system instructions (43_system.md): TRAP through its table entry, RTI in supervisor mode as the frame it pops, the frame that interrupt
initiation leaves, and the statements about them. -/

namespace Sys2Proof.Machine

/-! ### TRAP (43_system.md rule R142) -/

/-- The table entry is read and tested before anything is written; it lies in ordinary memory, so the read does not stop. -/
theorem exec_trap (v : BitVec 8) (s : State) : exec (.trap v) s =
    faultIf (isOdd (wordAt s.mem (BitVec.ofNat 16 (2 * v.toNat)))) .unalignedPC
      (.next (linkAndJump s s.pc (wordAt s.mem (BitVec.ofNat 16 (2 * v.toNat))))) := by
  rw [← trapEntry_eq, ← Memory.getWord_eq_wordAt]
  show execTrap v s = _
  rw [execTrap, readMemWord_eq_next.2 ⟨inDeviceRegion_trapEntry v, rfl⟩, andThen_next]

/-! ### RTI (rule R140) -/

/-- The state in which the two words on top of the supervisor stack are popped, the PC's and above it the PSR's. -/
def popFrame (s : State) : State :=
  ((s.withPC (wordAt s.mem s.ssp)).withSSP (s.ssp + 4#16)).withPSR (wordAt s.mem (s.ssp + 2#16))

theorem popFrame_mode_eq_user_iff (s : State) :
    (popFrame s).mode = .user ↔ (wordAt s.mem (s.ssp + 2#16)).getLsbD 15 = true := by
  rw [popFrame, State.withPSR_mode]
  cases (wordAt s.mem (s.ssp + 2#16)).getLsbD 15 <;> decide

theorem getReg_popFrame_of_ne (s : State) {r : Reg} (h : r ≠ .r6) : getReg (popFrame s) r = getReg s r := by
  rw [popFrame, getReg_withPSR_of_ne _ _ h, getReg_withSSP_of_ne _ _ h, getReg_withPC]

theorem sameDevices_popFrame (s : State) : SameDevices s (popFrame s) := by constructor <;> rfl

section
variable {s : State}

/-- A supervisor's RTI tests SSP, reads the stack word of the PC and then that of the PSR, and tests the popped PC. -/
theorem exec_rti_of_supervisor (hmode : s.mode = .supervisor) : exec .rti s =
    faultIf (isOdd s.ssp) .illegalOperandAddress
      (andThen (readMemWord s s.ssp) fun newpc =>
        andThen (readMemWord s (s.ssp + 2#16)) fun temp =>
          faultIf (isOdd newpc) .unalignedPC (.next (((s.withPC newpc).withSSP (s.ssp + 4#16)).withPSR temp))) := by
  show returnFromInterrupt s = _
  rw [returnFromInterrupt, hmode, Mode.bit, faultIf_false]

theorem exec_rti_of_frame (hmode : s.mode = .supervisor) (hodd : isOdd s.ssp = false) (hlow : inDeviceRegion s.ssp = false)
    (hhigh : inDeviceRegion (s.ssp + 2#16) = false) (hpc : isOdd (wordAt s.mem s.ssp) = false) :
    exec .rti s = .next (popFrame s) := by
  rw [popFrame, ← Memory.getWord_eq_wordAt, ← Memory.getWord_eq_wordAt]
  rw [← Memory.getWord_eq_wordAt] at hpc
  exact returnFromInterrupt_eq_next.2 ⟨hmode, hodd, hlow, hhigh, hpc, rfl⟩

end

/-! ### The frame that interrupt initiation leaves (60_exceptions.md rule R172) -/

theorem wordAt_eq_of_get_eq {m n : Memory} {a : Word} (hlow : m.get a.toNat = n.get a.toNat)
    (hhigh : m.get (a.toNat + 1) = n.get (a.toNat + 1)) : wordAt m a = wordAt n a := by
  rw [wordAt, wordAt, hlow, hhigh]

/-- Two memories that agree on the four bytes of a frame agree on its two words. -/
theorem wordAt_eq_of_frame_eq {m n : Memory} {pcAt psrAt : Word} (habove : psrAt.toNat = pcAt.toNat + 2)
    (h : ∀ k < 4, m.get (pcAt.toNat + k) = n.get (pcAt.toNat + k)) :
    wordAt m pcAt = wordAt n pcAt ∧ wordAt m psrAt = wordAt n psrAt := by
  refine ⟨wordAt_eq_of_get_eq (h 0 (by decide)) (h 1 (by decide)), wordAt_eq_of_get_eq ?_ ?_⟩ <;> rw [habove]
  · exact h 2 (by decide)
  · exact h 3 (by decide)

/-- Where the PSR's word of a frame lies, seen from the PC's. -/
theorem frame_psr_address (ssp : Word) : ssp - 4#16 + 2#16 = ssp - 2#16 := by bv_omega

section
variable {s : State} (hwf : s.mem.wf = true) (intv : BitVec 8)
include hwf

/-- The PC is stored last, at the new SSP. -/
theorem wordAt_afterInitiation_pc : wordAt (afterInitiation intv s).mem (s.ssp - 4#16) = s.pc :=
  wordAt_setWord (Memory.setWord_wf hwf _ _) _ _

/-- The PSR is stored first, and the store of the PC below it leaves it. -/
theorem wordAt_afterInitiation_psr (hodd : isOdd s.ssp = false) (hpsr : inDeviceRegion (s.ssp - 2#16) = false)
    (hpc : inDeviceRegion (s.ssp - 4#16) = false) : wordAt (afterInitiation intv s).mem (s.ssp - 2#16) = s.psr := by
  have habove := toNat_frame hodd hpsr hpc
  calc wordAt (afterInitiation intv s).mem (s.ssp - 2#16)
      = wordAt (s.mem.setWord (s.ssp - 2#16) s.psr) (s.ssp - 2#16) :=
        wordAt_setWord_of_disjoint (Memory.setWord_wf hwf _ _) _ (.inl (by omega))
    _ = s.psr := wordAt_setWord hwf _ _

end

/-- A state whose frame holds the pc and the PSR of `s` pops back the pc, the mode and the condition codes of `s`. -/
theorem popFrame_of_frame {r s : State} (hpc : wordAt r.mem r.ssp = s.pc) (hpsr : wordAt r.mem (r.ssp + 2#16) = s.psr) :
    (popFrame r).pc = s.pc ∧ (popFrame r).mode = s.mode ∧ SameCC s (popFrame r) := by
  obtain ⟨hmode, hn, hz, hp⟩ := psr_bits s
  rw [popFrame, hpc, hpsr]
  refine ⟨rfl, ?_, hn, hz, hp⟩
  rw [State.withPSR_mode, hmode, Mode.ofBit_bit]

/-! ### The statements -/

/-- Settles O34: an even entry is called. -/
theorem trapLinksAndGoesThroughVectorTable : Obligations.TrapLinksAndGoesThroughVectorTable := by
  refine fun v => ⟨hasForm_of_encode rfl rfl fun _ => map_unsignedField_toNat .trap v, fun s heven => ?_⟩
  refine ⟨_, ?_, callsTo_linkAndJump s _⟩
  rw [exec_trap, heven, faultIf_false]

/-- Settles O35. -/
theorem trapThroughOddEntryStops : Obligations.TrapThroughOddEntryStops := by
  intro v s hodd
  rw [exec_trap, hodd, faultIf_true]

/-- Settles O36: the outcome is `popFrame`, field by field. -/
theorem rtiPopsPcThenPsr : Obligations.RtiPopsPcThenPsr := by
  refine ⟨hasForm_of_encode rfl rfl fun _ => rfl, fun s hmode hodd hlow hhigh hpc => ?_⟩
  exact ⟨popFrame s, exec_rti_of_frame hmode hodd hlow hhigh hpc, rfl, rfl, rfl, popFrame_mode_eq_user_iff s, rfl, rfl, rfl,
    fun _ => getReg_popFrame_of_ne s, fun _ => rfl, sameDevices_popFrame s⟩

/-- Settles O38: each stop is the first of RTI's tests and reads that does not go on. -/
theorem rtiStopsInOrder : Obligations.RtiStopsInOrder := by
  intro s hmode
  rw [exec_rti_of_supervisor hmode]
  refine ⟨fun hodd => ?_, fun heven hstack => ?_, fun heven hlow hhigh hpc => ?_⟩
  · rw [hodd, faultIf_true]
  · rw [heven, faultIf_false]
    cases hlow : inDeviceRegion s.ssp with
    | true => rw [readMemWord_of_device s hlow, andThen_refused]
    | false =>
      have hhigh := hstack.resolve_left (by simp [hlow])
      rw [readMemWord_eq_next.2 ⟨hlow, rfl⟩, andThen_next, readMemWord_of_device s hhigh, andThen_refused]
  · rw [← Memory.getWord_eq_wordAt] at hpc
    rw [heven, faultIf_false, readMemWord_eq_next.2 ⟨hlow, rfl⟩, andThen_next, readMemWord_eq_next.2 ⟨hhigh, rfl⟩, andThen_next,
      hpc, faultIf_true]

/-- Settles O39: both words are encodings, and neither meaning reads the state. -/
theorem reservedOpcodesStop : Obligations.ReservedOpcodesStop := fun low _ =>
  ⟨decodeWord_of_encode_eq (i := .reserved1010 low) rfl rfl, decodeWord_of_encode_eq (i := .reserved1011 low) rfl rfl, rfl, rfl⟩

/-- Settles O46: the frame in `r` is the one initiation stored, so RTI pops the pc and the PSR of `s`, and SSP moves up by what it moved down. -/
theorem rtiReturnsToTheInterruptedProcess : Obligations.RtiReturnsToTheInterruptedProcess := by
  intro s t r hwf heven hinit hmode hssp hframe
  obtain ⟨hodd, -, -, hpsr, hpc, rfl⟩ := initiateInterrupt_eq_next.1 hinit
  replace hssp : r.ssp = s.ssp - 4#16 := hssp
  obtain ⟨hsamePC, hsamePSR⟩ := wordAt_eq_of_frame_eq (toNat_frame hodd hpsr hpc) hframe
  have hpcWord : wordAt r.mem r.ssp = s.pc := by
    rw [hssp, hsamePC, wordAt_afterInitiation_pc hwf]
  have hpsrWord : wordAt r.mem (r.ssp + 2#16) = s.psr := by
    rw [hssp, frame_psr_address, hsamePSR, wordAt_afterInitiation_psr hwf _ hodd hpsr hpc]
  have hrun : exec .rti r = .next (popFrame r) := by
    apply exec_rti_of_frame hmode
    · rw [hssp, isOdd_sub_of_even (by decide), hodd]
    · rw [hssp, hpc]
    · rw [hssp, frame_psr_address, hpsr]
    · rw [hpcWord, heven]
  obtain ⟨hpc', hmode', hcc⟩ := popFrame_of_frame hpcWord hpsrWord
  have hssp' : (popFrame r).ssp = s.ssp := (congrArg (· + 4#16) hssp).trans (sub_add_cancel _ _)
  exact ⟨popFrame r, hrun, hpc', hmode', hcc, hssp', rfl, fun _ => getReg_popFrame_of_ne r, rfl, sameDevices_popFrame r⟩

end Sys2Proof.Machine
end

section
/-! SUPPORT. The device registers (60_exceptions.md rules R180 to R184): their words in the spec's terms, LDW and STW at their addresses, the events of a
boundary, and the statements about them. -/

namespace Sys2Proof.Machine

/-! ### The words of KBSR and KBDR -/

theorem kbsrWord_eq (s : State) : s.kbsrWord = bit15Word s.kbReady + (if s.kbIE then 0x4000#16 else 0#16) := by
  rw [State.kbsrWord]
  cases s.kbReady <;> cases s.kbIE <;> rfl

theorem kbdrWord_eq (s : State) : s.kbdrWord = BitVec.ofNat 16 s.kbdr.toNat := by
  apply BitVec.eq_of_toNat_eq
  have hlt := s.kbdr.isLt
  rw [State.kbdrWord, toNat_append_add, BitVec.toNat_ofNat, BitVec.toNat_ofNat]
  omega

/-! ### LDW and STW at the address of a device register -/

theorem SameDevices.refl (s : State) : SameDevices s s := by constructor <;> rfl

section
variable {s t : State} {base : Reg} {offset6 : BitVec 6} {d : DeviceReg} {v : Word} (r : Reg)
  (heven : isOdd (getReg s base) = false) (haddr : wordAddress (getReg s base) offset6 = d.address)
include heven haddr

/-- LDW writes the word that the device register answers, on the state that the read leaves. -/
theorem exec_ldw_of_device (hread : readDevice d s = .next (v, t)) :
    ∃ u, exec (.ldw r base offset6) s = .next u ∧ WritesResult t u r v := by
  refine ⟨writeResult r v t, ?_, writesResult_writeResult t r v⟩
  rw [exec_ldw_of_even r offset6 heven, haddr, loadWord_address, hread, andThen_next]

/-- STW makes the change of the device register's write, which is a change of the devices only. -/
theorem exec_stw_of_device (hwrite : writeDevice d (getReg s r) s = .next t) :
    ∃ u, exec (.stw r base offset6) s = .next u ∧ SameProcessor s u ∧ SameMemory s u ∧ SameDevices t u := by
  refine ⟨t, ?_, writeDevice_sameProcessor hwrite, sameMemory_of_mem_eq (writeDevice_mem hwrite), .refl t⟩
  rw [exec_stw_of_even r offset6 heven, haddr, storeWord_address, hwrite]

end

/-! ### The statements -/

/-- Settles O20: LDW of each register, whose word is then written in the spec's terms. -/
theorem ldwReadsDeviceRegisters : Obligations.LdwReadsDeviceRegisters := by
  intro dr base offset6 s heven
  rw [← kbsrWord_eq, ← kbdrWord_eq, ← dsrWord_eq_bit15Word, ← mcrWord_eq_bit15Word]
  exact ⟨fun ha => exec_ldw_of_device (d := .kbsr) dr heven ha rfl, fun ha => exec_ldw_of_device (d := .kbdr) dr heven ha rfl,
    fun ha => exec_ldw_of_device (d := .dsr) dr heven ha rfl, fun ha => exec_ldw_of_device (d := .mcr) dr heven ha rfl⟩

/-- Settles O23: STW of each register that takes a word, DDR where the display is ready. -/
theorem stwWritesDeviceRegisters : Obligations.StwWritesDeviceRegisters := fun sr _ _ _ heven =>
  ⟨fun ha => exec_stw_of_device (d := .kbsr) sr heven ha rfl,
    fun ha hready => exec_stw_of_device (d := .ddr) sr heven ha (writeDevice_eq_next.2 (.inr (.inl ⟨rfl, hready, rfl⟩))),
    fun ha => exec_stw_of_device (d := .mcr) sr heven ha rfl⟩

/-- A boundary leaves the processor, the stack pointer that is not selected included. -/
theorem sameProcessor_atBoundary (s : State) : SameProcessor s (atBoundary s) where
  regs := { regs := fun r _ => getReg_atBoundary s r, idle := by simp only [idleSP, atBoundary_mode, atBoundary_ssp, atBoundary_usp],
            mode := atBoundary_mode s }
  cc := ⟨atBoundary_ccN s, atBoundary_ccZ s, atBoundary_ccP s⟩
  pc := atBoundary_pc s

/-- Settles O47: each event and each boundary by definition, the frame by the laws of the boundary. -/
theorem deviceEventsChangeOnlyTheirRegisters : Obligations.DeviceEventsChangeOnlyTheirRegisters := by
  refine ⟨fun _ _ => rfl, fun _ => rfl, fun s now later hs => ?_, fun _ => atBoundary_of_schedule_nil, fun s => ?_⟩
  · rw [atBoundary, hs]
  · exact ⟨sameProcessor_atBoundary s, sameMemory_of_mem_eq (atBoundary_mem s), atBoundary_kbIE s, atBoundary_clock s,
      atBoundary_display s, atBoundary_ddr s, atBoundary_schedule s⟩

end Sys2Proof.Machine
end

section
/-! SUPPORT. The keyboard interrupt (60_exceptions.md rules R170 to R172): its condition, the tests and accesses of its initiation as an equation, the state
after it, and the statements about them. -/

namespace Sys2Proof.Machine

/-! ### The condition (rules R170, R171) -/

@[simp] theorem Mode.bit_eq_true {m : Mode} : m.bit = true ↔ m = .user := by cases m <;> decide

/-- Settles O45: the request is a level, and under the default only user mode can be interrupted. -/
theorem interruptConditionIsReadyAndEnabledInUserMode : Obligations.InterruptConditionIsReadyAndEnabledInUserMode := by
  intro s
  simp only [interruptTaken, interruptRequest, Config.supervisorInterruptible, Bool.or_false, Bool.and_eq_true, Mode.bit_eq_true]
  exact and_comm

theorem step_of_interrupt {s b : State} (hclock : s.clock = true) (hb : atBoundary s = b) (hmode : b.mode = .user)
    (hready : b.kbReady = true) (hie : b.kbIE = true) : step s = initiateInterrupt keyboardVector b := by
  have htaken : interruptTaken Config.supervisorInterruptible b = true :=
    (interruptConditionIsReadyAndEnabledInUserMode b).2 ⟨hmode, hready, hie⟩
  simp only [step, hclock, hb, htaken, if_true]

/-! ### The state after initiation (rule R172) -/

/-- The PSR word pushed from user mode, as a number: bit 15 and the three condition codes. -/
theorem psr_eq_of_user {s : State} (hmode : s.mode = .user) :
    s.psr = BitVec.ofNat 16 (0x8000 + 4 * s.ccN.toNat + 2 * s.ccZ.toNat + s.ccP.toNat) := by
  rw [State.psr, hmode]
  cases s.ccN <;> cases s.ccZ <;> cases s.ccP <;> rfl

theorem getReg_afterInitiation_of_ne (intv : BitVec 8) (s : State) {r : Reg} (h : r ≠ .r6) :
    getReg (afterInitiation intv s) r = getReg s r := by
  rw [afterInitiation, getReg_withPC, getReg_withMode_of_ne _ _ h, getReg_withSSP_of_ne _ _ h, getReg_withMem]

theorem sameDevices_afterInitiation (intv : BitVec 8) (s : State) : SameDevices s (afterInitiation intv s) := by
  constructor <;> rfl

theorem sameCC_afterInitiation (intv : BitVec 8) (s : State) : SameCC s (afterInitiation intv s) := ⟨rfl, rfl, rfl⟩

/-- Initiation stores to the two words of its frame only. -/
theorem sameMemoryOutside_afterInitiation (intv : BitVec 8) {s : State} (hwf : s.mem.wf = true) :
    SameMemoryOutside s (afterInitiation intv s)
      [(s.ssp - 4#16).toNat, (s.ssp - 4#16).toNat + 1, (s.ssp - 2#16).toNat, (s.ssp - 2#16).toNat + 1] := by
  intro a ha
  simp only [List.mem_cons, List.not_mem_nil, or_false, not_or] at ha
  obtain ⟨hpc, hpc', hpsr, hpsr'⟩ := ha
  show ((s.mem.setWord (s.ssp - 2#16) s.psr).setWord (s.ssp - 4#16) s.pc).get a = s.mem.get a
  rw [Memory.get_setWord (Memory.setWord_wf hwf _ _), if_neg hpc', if_neg hpc, Memory.get_setWord hwf, if_neg hpsr', if_neg hpsr]

/-- Settles O43: the outcome is `afterInitiation`, whose frame holds the PSR word and the pc. -/
theorem interruptInitiationPushesPsrAndPc : Obligations.InterruptInitiationPushesPsrAndPc := by
  intro s b hclock hb hmode hready hie hwf hodd hpsr hpc hentry
  have hrun : initiateInterrupt keyboardVector b = .next (afterInitiation keyboardVector b) :=
    initiateInterrupt_eq_next.2 ⟨hodd, by decide, by rwa [interruptEntry_keyboardVector, Memory.getWord_eq_wordAt], hpsr, hpc, rfl⟩
  refine ⟨_, (step_of_interrupt hclock hb hmode hready hie).trans hrun, ?_, rfl, rfl, rfl, ?_, wordAt_afterInitiation_pc hwf _,
    sameMemoryOutside_afterInitiation _ hwf, fun _ => getReg_afterInitiation_of_ne _ b, sameCC_afterInitiation _ b,
    sameDevices_afterInitiation _ b⟩
  · rw [← Memory.getWord_eq_wordAt, ← interruptEntry_keyboardVector]
    rfl
  · rw [wordAt_afterInitiation_psr hwf _ hodd hpsr hpc, psr_eq_of_user hmode]

/-! ### Where initiation stops (rule R172's order, log 11) -/

theorem writeMemWord_of_device (s : State) {a : Word} (h : inDeviceRegion a = true) (v : Word) :
    writeMemWord s a v = .refused .unmappedIO := by
  simp [writeMemWord, h]

/-- The keyboard's table entry lies in ordinary memory, so its read does not stop. -/
theorem initiateInterrupt_keyboardVector (s : State) : initiateInterrupt keyboardVector s =
    faultIf (isOdd s.ssp) .illegalOperandAddress
      (faultIf (isOdd (wordAt s.mem 0x0280#16)) .unalignedPC
        (andThen (writeMemWord s (s.ssp - 2#16) s.psr) fun s1 =>
          andThen (writeMemWord s1 (s.ssp - 4#16) s.pc) fun s2 =>
            .next (((s2.withSSP (s.ssp - 4#16)).withMode .supervisor).withPC (wordAt s.mem 0x0280#16)))) := by
  rw [initiateInterrupt, interruptEntry_keyboardVector, readMemWord_eq_next.2 ⟨by decide, rfl⟩, andThen_next,
    Memory.getWord_eq_wordAt]

/-- Settles O44: each stop is the first of the tests and stores of initiation that does not go on. -/
theorem interruptInitiationStopsInOrder : Obligations.InterruptInitiationStopsInOrder := by
  intro s b hclock hb hmode hready hie
  rw [step_of_interrupt hclock hb hmode hready hie, initiateInterrupt_keyboardVector]
  refine ⟨fun hodd => ?_, fun heven hentry => ?_, fun heven hentry hstack => ?_⟩
  · rw [hodd, faultIf_true]
  · rw [heven, faultIf_false, hentry, faultIf_true]
  · rw [heven, faultIf_false, hentry, faultIf_false]
    cases hpsr : inDeviceRegion (b.ssp - 2#16) with
    | true => rw [writeMemWord_of_device b hpsr, andThen_refused]
    | false =>
      have hpc := hstack.resolve_left (by simp [hpsr])
      rw [writeMemWord_eq_next.2 ⟨hpsr, rfl⟩, andThen_next, writeMemWord_of_device _ hpc, andThen_refused]

end Sys2Proof.Machine
end

section
/-! SUPPORT. The faults of an instruction (60_exceptions.md rules R161 to R163): which instructions end in one, said once, and the statements about the two
exceptions the sources name. -/

namespace Sys2Proof.Machine

/-! ### Where an outcome is a fault -/

theorem andThen_eq_fault {α β : Type} {x : Outcome α} {f : α → Outcome β} {e : Fault} :
    andThen x f = .fault e ↔ x = .fault e ∨ ∃ a, x = .next a ∧ f a = .fault e := by
  cases x <;> simp [andThen]

theorem faultIf_eq_fault {α : Type} {c : Bool} {e₀ e : Fault} {x : Outcome α} :
    faultIf c e₀ x = .fault e ↔ (c = true ∧ e = e₀) ∨ (c = false ∧ x = .fault e) := by
  cases c <;> simp [faultIf, eq_comm]

/-! No access to memory or to a device register is a fault: each answers, or is refused (20_memory.md rule R44). -/

section
variable (s : State) (a v : Word) (e : Fault)

@[simp] theorem readByte_ne_fault : readByte s a ≠ .fault e := by
  unfold readByte
  split <;> nofun

@[simp] theorem writeByte_ne_fault (b : Byte) : writeByte s a b ≠ .fault e := by
  unfold writeByte
  split <;> nofun

@[simp] theorem readMemWord_ne_fault : readMemWord s a ≠ .fault e := by
  unfold readMemWord
  split <;> nofun

@[simp] theorem readDevice_ne_fault (d : DeviceReg) : readDevice d s ≠ .fault e := by
  cases d <;> nofun

@[simp] theorem writeDevice_ne_fault (d : DeviceReg) : writeDevice d v s ≠ .fault e := by
  cases d with
  | ddr => simp only [writeDevice]; split <;> nofun
  | kbsr | kbdr | dsr | mcr => nofun

@[simp] theorem loadWord_ne_fault : loadWord s a ≠ .fault e := by
  unfold loadWord
  split
  · split
    · exact readDevice_ne_fault s e _
    · nofun
  · nofun

@[simp] theorem storeWord_ne_fault : storeWord s a v ≠ .fault e := by
  unfold storeWord
  split
  · split
    · exact writeDevice_ne_fault s v e _
    · nofun
  · nofun

end

/-! ### The faults of an instruction -/

section
variable (r base : Reg) (off : BitVec 6) (s : State)

theorem exec_ldw : exec (.ldw r base off) s = faultIf (isOdd (getReg s base)) .illegalOperandAddress
    (andThen (loadWord s (wordAddress (getReg s base) off)) fun l => .next (writeResult r l.1 l.2)) := rfl

theorem exec_stw : exec (.stw r base off) s = faultIf (isOdd (getReg s base)) .illegalOperandAddress
    (storeWord s (wordAddress (getReg s base) off) (getReg s r)) := rfl

variable {r base off s}

theorem exec_ldw_of_odd (h : isOdd (getReg s base) = true) : exec (.ldw r base off) s = .fault .illegalOperandAddress := by
  rw [exec_ldw, h, faultIf_true]

theorem exec_stw_of_odd (h : isOdd (getReg s base) = true) : exec (.stw r base off) s = .fault .illegalOperandAddress := by
  rw [exec_stw, h, faultIf_true]

theorem exec_rti_of_user (h : s.mode = .user) : exec .rti s = .fault .privilegeModeViolation := by
  show returnFromInterrupt s = _
  rw [returnFromInterrupt, h, Mode.bit, faultIf_true]

theorem exec_rti_of_odd (hmode : s.mode = .supervisor) (h : isOdd s.ssp = true) : exec .rti s = .fault .illegalOperandAddress := by
  rw [exec_rti_of_supervisor hmode, h, faultIf_true]

end

/-- What a fault of `exec` can be, one case for each test that raises one. -/
theorem exec_fault_cases {i : Instr} {s : State} {e : Fault} (h : exec i s = .fault e) :
    (∃ r base off, (i = .ldw r base off ∨ i = .stw r base off) ∧ isOdd (getReg s base) = true ∧ e = .illegalOperandAddress) ∨
    (∃ base, (i = .jmp base ∨ (i = .ret ∧ base = .r7)) ∧ isOdd (getReg s base) = true ∧ e = .illegalOperandAddress) ∨
    (∃ base, i = .jsrr base ∧ isOdd (if base = .r7 then s.pc else getReg s base) = true ∧ e = .illegalOperandAddress) ∨
    (i = .rti ∧ s.mode = .supervisor ∧ isOdd s.ssp = true ∧ e = .illegalOperandAddress) ∨
    (i = .rti ∧ s.mode = .user ∧ e = .privilegeModeViolation) ∨
    ((i = .rti ∨ ∃ v, i = .trap v) ∧ e = .unalignedPC) ∨
    (∃ w, e = .illegalOpcode w) := by
  cases i with
  | addReg | addImm | andReg | andImm | xorReg | xorImm | notReg | lshf | rshfl | rshfa | lea | br | jsr => cases h
  | ldb r base off =>
    rw [exec_ldb, andThen_eq_fault] at h
    simp at h
  | stb r base off => exact absurd h (writeByte_ne_fault _ _ _ _)
  | ldw r base off =>
    rcases faultIf_eq_fault.1 h with ⟨hodd, he⟩ | ⟨-, h⟩
    · exact .inl ⟨r, base, off, .inl rfl, hodd, he⟩
    · simp [andThen_eq_fault] at h
  | stw r base off =>
    rcases faultIf_eq_fault.1 h with ⟨hodd, he⟩ | ⟨-, h⟩
    · exact .inl ⟨r, base, off, .inr rfl, hodd, he⟩
    · exact absurd h (storeWord_ne_fault _ _ _ _)
  | jmp base =>
    rcases faultIf_eq_fault.1 h with ⟨hodd, he⟩ | ⟨-, h⟩
    · exact .inr (.inl ⟨base, .inl rfl, hodd, he⟩)
    · cases h
  | ret =>
    rcases faultIf_eq_fault.1 h with ⟨hodd, he⟩ | ⟨-, h⟩
    · exact .inr (.inl ⟨.r7, .inr ⟨rfl, rfl⟩, hodd, he⟩)
    · cases h
  | jsrr base =>
    rw [exec_jsrr] at h
    rcases faultIf_eq_fault.1 h with ⟨hodd, he⟩ | ⟨-, h⟩
    · exact .inr (.inr (.inl ⟨base, rfl, hodd, he⟩))
    · cases h
  | trap v =>
    rw [exec_trap] at h
    rcases faultIf_eq_fault.1 h with ⟨-, he⟩ | ⟨-, h⟩
    · exact .inr (.inr (.inr (.inr (.inr (.inl ⟨.inr ⟨v, rfl⟩, he⟩)))))
    · cases h
  | rti =>
    cases hmode : s.mode with
    | user =>
      rw [exec_rti_of_user hmode] at h
      exact .inr (.inr (.inr (.inr (.inl ⟨rfl, rfl, (Host.Outcome.fault.inj h).symm⟩))))
    | supervisor =>
      rw [exec_rti_of_supervisor hmode] at h
      rcases faultIf_eq_fault.1 h with ⟨hodd, he⟩ | ⟨-, h⟩
      · exact .inr (.inr (.inr (.inl ⟨rfl, rfl, hodd, he⟩)))
      · simp only [andThen_eq_fault, readMemWord_ne_fault, false_or, faultIf_eq_fault, reduceCtorEq, and_false, or_false] at h
        obtain ⟨_, -, _, -, -, he⟩ := h
        exact .inr (.inr (.inr (.inr (.inr (.inl ⟨.inl rfl, he⟩)))))
  | reserved1010 low | reserved1011 low =>
    exact .inr (.inr (.inr (.inr (.inr (.inr ⟨_, (Host.Outcome.fault.inj h).symm⟩)))))

/-! ### The statements -/

/-- Settles O33: the cases of `exec_fault_cases` with this fault are those listed, and each of them raises it. JSRR's R7 holds the even pc. -/
theorem illegalOperandAddressExactlyOnOddRegister : Obligations.IllegalOperandAddressExactlyOnOddRegister := by
  intro i s heven
  constructor
  · intro h
    rcases exec_fault_cases h with ⟨r, base, off, hi, hodd, -⟩ | ⟨base, rfl | ⟨rfl, rfl⟩, hodd, -⟩ | ⟨base, rfl, hodd, -⟩ |
      ⟨rfl, hmode, hodd, -⟩ | ⟨-, -, ⟨⟩⟩ | ⟨-, ⟨⟩⟩ | ⟨_, ⟨⟩⟩
    · exact .inl ⟨r, base, off, hi, hodd⟩
    · exact .inr (.inl ⟨base, rfl, hodd⟩)
    · exact .inr (.inr (.inl ⟨rfl, hodd⟩))
    · have hbase : base ≠ .r7 := by
        rintro rfl
        rw [if_pos rfl, heven] at hodd
        cases hodd
      rw [if_neg hbase] at hodd
      exact .inr (.inr (.inr (.inl ⟨base, rfl, hbase, hodd⟩)))
    · exact .inr (.inr (.inr (.inr ⟨rfl, hmode, hodd⟩)))
  · rintro (⟨r, base, off, rfl | rfl, hodd⟩ | ⟨base, rfl, hodd⟩ | ⟨rfl, hodd⟩ | ⟨base, rfl, hbase, hodd⟩ | ⟨rfl, hmode, hodd⟩)
    · exact exec_ldw_of_odd hodd
    · exact exec_stw_of_odd hodd
    · exact exec_jmp_of_odd hodd
    · exact (exec_ret_eq_exec_jmp s).trans (exec_jmp_of_odd hodd)
    · exact exec_jsrr_of_odd hbase hodd
    · exact exec_rti_of_odd hmode hodd

/-- Settles O37: one case of `exec_fault_cases` has this fault, and RTI tests the mode before all else. -/
theorem privilegeViolationExactlyForRtiInUserMode : Obligations.PrivilegeViolationExactlyForRtiInUserMode := by
  intro i s
  constructor
  · intro h
    rcases exec_fault_cases h with ⟨_, _, _, -, -, ⟨⟩⟩ | ⟨_, -, -, ⟨⟩⟩ | ⟨_, -, -, ⟨⟩⟩ | ⟨-, -, -, ⟨⟩⟩ | ⟨hi, hmode, -⟩ |
      ⟨-, ⟨⟩⟩ | ⟨_, ⟨⟩⟩
    exact ⟨hi, hmode⟩
  · rintro ⟨rfl, hmode⟩
    exact exec_rti_of_user hmode

end Sys2Proof.Machine
end

section
/-! SUPPORT. The exchange of the modes (60_exceptions.md rule R165): every operation that an instruction other than RTI is made of commutes with `swapMode`, and
so does the instruction. -/

namespace Sys2Proof.Machine

/-! ### What the exchange keeps, and the updates it commutes with -/

section
variable (s : State)

@[simp] theorem getReg_swapMode (r : Reg) : getReg (swapMode s) r = getReg s r := by
  cases r with
  | r6 => unfold swapMode getReg; cases s.mode <;> rfl
  | r0 | r1 | r2 | r3 | r4 | r5 | r7 => rfl

@[simp] theorem branchTaken_swapMode (n z p : Bool) : branchTaken n z p (swapMode s) = branchTaken n z p s := rfl

theorem setReg_swapMode (r : Reg) (v : Word) : setReg (swapMode s) r v = swapMode (setReg s r v) := by
  cases r with
  | r6 => cases hm : s.mode <;> simp [setReg, swapMode, hm]
  | r0 | r1 | r2 | r3 | r4 | r5 | r7 => rfl

theorem writeResult_swapMode (dr : Reg) (v : Word) : writeResult dr v (swapMode s) = swapMode (writeResult dr v s) := by
  rw [writeResult, setReg_swapMode]
  rfl

theorem linkAndJump_swapMode (link target : Word) : linkAndJump (swapMode s) link target = swapMode (linkAndJump s link target) := by
  rw [linkAndJump, setReg_swapMode]
  rfl

/-! A device register neither shows the mode nor the stack pointers, and no access changes them. -/

theorem readDevice_swapMode (d : DeviceReg) :
    readDevice d (swapMode s) = andThen (readDevice d s) fun l => .next (l.1, swapMode l.2) := by
  cases d <;> rfl

theorem writeDevice_swapMode (d : DeviceReg) (v : Word) : writeDevice d v (swapMode s) = mapNext swapMode (writeDevice d v s) := by
  cases d with
  | ddr =>
    show (if s.dsrReady then _ else _) = mapNext swapMode (if s.dsrReady then _ else _)
    split <;> rfl
  | kbsr | kbdr | dsr | mcr => rfl

theorem loadWord_swapMode (a : Word) :
    loadWord (swapMode s) a = andThen (loadWord s a) fun l => .next (l.1, swapMode l.2) := by
  unfold loadWord
  split
  · split
    · exact readDevice_swapMode s _
    · rfl
  · rfl

theorem storeWord_swapMode (a v : Word) : storeWord (swapMode s) a v = mapNext swapMode (storeWord s a v) := by
  unfold storeWord
  split
  · split
    · exact writeDevice_swapMode s _ v
    · rfl
  · rfl

theorem writeByte_swapMode (a : Word) (b : Byte) : writeByte (swapMode s) a b = mapNext swapMode (writeByte s a b) := by
  unfold writeByte
  split <;> rfl

end

/-! ### `mapNext` through the sequencing of outcomes -/

theorem mapNext_faultIf (f : State → State) (c : Bool) (e : Fault) (x : Outcome State) :
    mapNext f (faultIf c e x) = faultIf c e (mapNext f x) := by
  cases c <;> rfl

theorem mapNext_andThen {α : Type} (f : State → State) (x : Outcome α) (g : α → Outcome State) :
    mapNext f (andThen x g) = andThen x fun a => mapNext f (g a) := by
  cases x <;> rfl

theorem andThen_andThen {α β γ : Type} (x : Outcome α) (f : α → Outcome β) (g : β → Outcome γ) :
    andThen (andThen x f) g = andThen x fun a => andThen (f a) g := by
  cases x <;> rfl

/-! ### The instructions -/

section
variable {s : State}

/-- A result computed from registers and pc alone is the same in both modes. -/
theorem next_writeResult_swapMode (dr : Reg) {u v : Word} (h : u = v) :
    (.next (writeResult dr u (swapMode s)) : Outcome State) = mapNext swapMode (.next (writeResult dr v s)) := by
  rw [h, writeResult_swapMode]
  rfl

theorem next_linkAndJump_swapMode (link : Word) {u v : Word} (h : u = v) :
    (.next (linkAndJump (swapMode s) link u) : Outcome State) = mapNext swapMode (.next (linkAndJump s link v)) := by
  rw [h, linkAndJump_swapMode]
  rfl

end

theorem exec_jmp_swapMode (base : Reg) (s : State) : exec (.jmp base) (swapMode s) = mapNext swapMode (exec (.jmp base) s) := by
  rw [exec_jmp, exec_jmp, mapNext_faultIf, getReg_swapMode]
  rfl

/-- Settles O57: each instruction is made of reads that the exchange keeps and of updates that it commutes with. -/
theorem instructionsBehaveAlikeInBothModes : Obligations.InstructionsBehaveAlikeInBothModes := by
  intro i s hi
  cases i with
  | addReg dr | andReg dr | xorReg dr => exact next_writeResult_swapMode dr (by rw [getReg_swapMode, getReg_swapMode])
  | addImm dr | andImm dr | xorImm dr | notReg dr | lshf dr | rshfl dr | rshfa dr =>
    exact next_writeResult_swapMode dr (by rw [getReg_swapMode])
  | lea dr => exact next_writeResult_swapMode dr rfl
  | br n z p off =>
    rw [exec_br, exec_br, branchTaken_swapMode]
    split <;> rfl
  | jmp base => exact exec_jmp_swapMode base s
  | ret => exact exec_jmp_swapMode .r7 s
  | jsr off => exact next_linkAndJump_swapMode s.pc rfl
  | jsrr base =>
    rw [exec_jsrr, exec_jsrr, mapNext_faultIf, getReg_swapMode]
    exact congrArg (faultIf _ _) (next_linkAndJump_swapMode s.pc rfl)
  | trap v =>
    rw [exec_trap, exec_trap, mapNext_faultIf]
    exact congrArg (faultIf _ _) (next_linkAndJump_swapMode s.pc rfl)
  | ldb dr base off =>
    rw [exec_ldb, exec_ldb, mapNext_andThen, getReg_swapMode]
    exact congrArg (andThen _) (funext fun _ => next_writeResult_swapMode dr rfl)
  | stb sr base off =>
    rw [exec_stb, exec_stb, getReg_swapMode, getReg_swapMode, writeByte_swapMode]
  | ldw dr base off =>
    rw [exec_ldw, exec_ldw, mapNext_faultIf, mapNext_andThen, getReg_swapMode, loadWord_swapMode, andThen_andThen]
    exact congrArg (fun f => faultIf _ _ (andThen _ f)) (funext fun _ => next_writeResult_swapMode dr rfl)
  | stw sr base off =>
    rw [exec_stw, exec_stw, mapNext_faultIf, getReg_swapMode, getReg_swapMode, storeWord_swapMode]
  | rti => exact absurd rfl hi
  | reserved1010 | reserved1011 => rfl

end Sys2Proof.Machine
end

section
/-! SUPPORT. What a step changes of the mode, the clock enable and the display output (60_exceptions.md rules R165, R182, R184): first for an instruction, then for
initiation, then for the step. -/

namespace Sys2Proof.Machine

/-! ### One instruction -/

/-- No instruction but RTI changes the mode (60_exceptions.md rule R165). -/
theorem exec_mode {i : Instr} {s t : State} (h : exec i s = .next t) :
    t.mode = s.mode ∨ (i = .rti ∧ s.mode = .supervisor ∧ t = popFrame s) := by
  rcases exec_result_frame_or_return h with ⟨-, dr, v, u, rfl | rfl, rfl⟩ | ⟨-, hregs, -⟩ | ⟨hi, hr⟩
  · exact .inl (writeResult_mode dr v u)
  · exact .inl (writeResult_mode dr v _)
  · exact .inl hregs.mode
  · obtain ⟨hmode, -, -, -, -, ht⟩ := returnFromInterrupt_eq_next.1 hr
    rw [Memory.getWord_eq_wordAt, Memory.getWord_eq_wordAt] at ht
    exact .inr ⟨hi, hmode, ht⟩

/-- No instruction but a STW to a device register changes the clock enable or the display output (60_exceptions.md rules R182, R184). -/
theorem exec_clock_display_or_device_store {i : Instr} {s t : State} (h : exec i s = .next t) :
    (t.clock = s.clock ∧ t.display = s.display) ∨
      ∃ sr base off d, i = .stw sr base off ∧ wordAddress (getReg s base) off = DeviceReg.address d ∧
        writeDevice d (getReg s sr) s = .next t := by
  rcases exec_cases h with ⟨-, dr, v, rfl⟩ | ⟨dr, _, _, -, -, rfl⟩ | ⟨_, _, _, -, -, rfl⟩ | ⟨_, _, _, -, -, -, rfl⟩ | hstore |
    ⟨_, _, _, _, -, rfl⟩ | ⟨_, -, -, rfl⟩ | ⟨_, -, rfl⟩ | ⟨_, -, -, rfl⟩ | ⟨_, -, -, rfl⟩ | ⟨-, hr⟩
  · exact .inl ⟨writeResult_clock dr v s, writeResult_display dr v s⟩
  · exact .inl ⟨writeResult_clock dr _ _, writeResult_display dr _ _⟩
  · exact .inl ⟨rfl, rfl⟩
  · exact .inl ⟨rfl, rfl⟩
  · exact .inr hstore
  · left
    split <;> exact ⟨rfl, rfl⟩
  · exact .inl ⟨rfl, rfl⟩
  · exact .inl ⟨linkAndJump_clock s _ _, linkAndJump_display s _ _⟩
  · exact .inl ⟨linkAndJump_clock s _ _, linkAndJump_display s _ _⟩
  · exact .inl ⟨linkAndJump_clock s _ _, linkAndJump_display s _ _⟩
  · obtain ⟨-, -, -, -, -, rfl⟩ := returnFromInterrupt_eq_next.1 hr
    exact .inl ⟨rfl, rfl⟩

/-! ### Initiation and the step -/

theorem initiateInterrupt_mode {intv : BitVec 8} {s t : State} (h : initiateInterrupt intv s = .next t) : t.mode = .supervisor := by
  obtain ⟨-, -, -, -, -, rfl⟩ := initiateInterrupt_eq_next.1 h
  rfl

theorem initiateInterrupt_sameDevices {intv : BitVec 8} {s t : State} (h : initiateInterrupt intv s = .next t) : SameDevices s t := by
  obtain ⟨-, -, -, -, -, rfl⟩ := initiateInterrupt_eq_next.1 h
  exact sameDevices_afterInitiation intv s

/-- What the fetch after a boundary runs is the word at pc before it. -/
theorem decodeWord_of_fetchInstr_atBoundary {s : State} {i : Instr} (h : fetchInstr (atBoundary s) = .next i) :
    decodeWord .strict (wordAt s.mem s.pc) = .ok i := by
  obtain ⟨-, -, hdecode⟩ := fetchInstr_eq_next.1 h
  rwa [atBoundary_mem, atBoundary_pc, Memory.getWord_eq_wordAt] at hdecode

/-- What a step can do to the mode: keep it, initiate the interrupt, or run a supervisor's RTI, which takes it from the popped PSR. -/
theorem step_mode {s t : State} (h : step s = .next t) :
    t.mode = s.mode ∨
    (t.mode = .supervisor ∧ interruptTaken Config.supervisorInterruptible (atBoundary s) = true ∧
      initiateInterrupt keyboardVector (atBoundary s) = .next t) ∨
    (s.mode = .supervisor ∧ decodeWord .strict (wordAt s.mem s.pc) = .ok .rti ∧
      (t.mode = .user ↔ (wordAt s.mem (s.ssp + 2#16)).getLsbD 15 = true)) := by
  rcases step_cases h with ⟨-, rfl⟩ | ⟨-, htaken, hinit⟩ | ⟨i, -, hfetch, hexec⟩
  · exact .inl rfl
  · exact .inr (.inl ⟨initiateInterrupt_mode hinit, htaken, hinit⟩)
  · rcases exec_mode hexec with hsame | ⟨rfl, hsup, rfl⟩
    · exact .inl (hsame.trans (atBoundary_mode s))
    · have hbit := popFrame_mode_eq_user_iff (advancePC (atBoundary s))
      rw [advancePC_mem, advancePC_ssp, atBoundary_mem, atBoundary_ssp] at hbit
      exact .inr (.inr ⟨(atBoundary_mode s).symm.trans hsup, decodeWord_of_fetchInstr_atBoundary hfetch, hbit⟩)

/-- No step changes the clock enable or the display output but one that runs a STW to a device register. -/
theorem step_clock_display_or_device_store {s t : State} (h : step s = .next t) :
    (t.clock = s.clock ∧ t.display = s.display) ∨
      ∃ sr base off d, decodeWord .strict (wordAt s.mem s.pc) = .ok (.stw sr base off) ∧
        wordAddress (getReg s base) off = DeviceReg.address d ∧
        writeDevice d (getReg s sr) (advancePC (atBoundary s)) = .next t := by
  rcases step_cases h with ⟨-, rfl⟩ | ⟨-, -, hinit⟩ | ⟨i, -, hfetch, hexec⟩
  · exact .inl ⟨rfl, rfl⟩
  · have hdev := initiateInterrupt_sameDevices hinit
    exact .inl ⟨hdev.clock.trans (atBoundary_clock s), hdev.display.trans (atBoundary_display s)⟩
  · rcases exec_clock_display_or_device_store hexec with ⟨hclock, hdisplay⟩ | ⟨sr, base, off, d, rfl, haddr, hwrite⟩
    · exact .inl ⟨hclock.trans (atBoundary_clock s), hdisplay.trans (atBoundary_display s)⟩
    · rw [getReg_advancePC, getReg_atBoundary] at haddr hwrite
      exact .inr ⟨sr, base, off, d, decodeWord_of_fetchInstr_atBoundary hfetch, haddr, hwrite⟩

/-! ### The statements -/

/-- Settles O55: the three cases of `step_mode`. -/
theorem modeChangesOnlyByInterruptAndRti : Obligations.ModeChangesOnlyByInterruptAndRti := by
  intro s t h
  rcases step_mode h with hsame | ⟨hsup, htaken, hinit⟩ | ⟨hsup, hdecode, hbit⟩
  · rw [hsame]
    exact ⟨fun hu hs => absurd (hu.symm.trans hs) (by decide), fun hs hu => absurd (hu.symm.trans hs) (by decide)⟩
  · exact ⟨fun _ _ => ⟨htaken, hinit⟩, fun _ hu => absurd (hu.symm.trans hsup) (by decide)⟩
  · exact ⟨fun hu => absurd (hu.symm.trans hsup) (by decide), fun _ hu => ⟨hdecode, hbit.1 hu⟩⟩

/-- Settles O59: of the stores to a device register only the one to MCR writes the clock enable, from bit 15. -/
theorem onlyAStoreToMcrStopsTheProcessor : Obligations.OnlyAStoreToMcrStopsTheProcessor := by
  intro s t hrun h hstop
  rcases step_clock_display_or_device_store h with ⟨hclock, -⟩ | ⟨sr, base, off, d, hdecode, haddr, hwrite⟩
  · simp [hclock, hrun] at hstop
  · rcases writeDevice_eq_next.1 hwrite with ⟨-, rfl⟩ | ⟨-, -, rfl⟩ | ⟨rfl, rfl⟩
    · simp [hrun] at hstop
    · simp [hrun] at hstop
    · exact ⟨sr, base, off, hdecode, haddr, hstop⟩

/-- Settles O60: of the stores to a device register only the one to a ready DDR outputs, and it outputs one character. -/
theorem displayOutputOnlyGrows : Obligations.DisplayOutputOnlyGrows := by
  intro s t h
  rcases step_clock_display_or_device_store h with ⟨-, hdisplay⟩ | ⟨sr, base, off, d, -, -, hwrite⟩
  · exact .inl hdisplay
  · rcases writeDevice_eq_next.1 hwrite with ⟨-, rfl⟩ | ⟨-, hready, rfl⟩ | ⟨-, rfl⟩
    · exact .inl (atBoundary_display s)
    · exact .inr ⟨_, congrArg (· ++ _) (atBoundary_display s), hready, rfl, rfl⟩
    · exact .inl (atBoundary_display s)

end Sys2Proof.Machine
end

section
/-! SUPPORT. The invariant of Safety.lean at the start of a run (10_state.md rule R34, 70_reset_and_hazards.md rules R200, R201). -/

namespace Sys2Proof.Machine

/-- Memory and pc of a launch are its parameters, and rule R201 asks of these what the invariant says. -/
theorem Launch.Valid.inv_launch {l : Launch} (h : l.Valid) : (State.launch l).Inv := by
  obtain ⟨hwf, hord, hpc, -⟩ := h
  exact ⟨hwf, hord, hpc⟩

/-- The parameters of `State.reset` are admissible: no byte is listed, and x3000 is even and below the device region (log 1 to 4). -/
theorem launchValid_resetParameters : Launch.Valid { pc := 0x3000#16 } := by decide

/-- Settles O51: every admissible launch has the invariant, and reset is one of them. -/
theorem launchHasTheInvariant : Obligations.LaunchHasTheInvariant :=
  ⟨launchValid_resetParameters.inv_launch, fun _ h => h.inv_launch⟩

end Sys2Proof.Machine
end
